-- ==== Sys2Proof/Word.lean ====
section
/-! DEFINITION. The bit-vector widths of CORE and the index types of its files of like things
(spec/00_scope.md R7 to R10). Everything is unsigned (R9). -/

namespace Sys2Proof

/-- A register, a memory byte, a timer: 8 bits (R7, R20). -/
abbrev Byte := BitVec 8

/-- An instruction word, `pc`, `I`, a stack entry: 16 bits (R7, R80). -/
abbrev Word := BitVec 16

/-- The immediate address field `nnn`: 12 bits (R8, R81). -/
abbrev Addr12 := BitVec 12

/-- A general register number 0 to 15 (R10). -/
abbrev Reg := Fin 16

/-- A key number 0 to 15 (R37). -/
abbrev Key := Fin 16

end Sys2Proof
end

