-- ==== Sys2Proof/WellFormed.lean ====
section
/-! DEFINITION. When a term of `Instr` is an instruction of CORE. Register numbers, immediate bytes and addresses are bounded by
their types (R83); the one operand that is a count, the sprite height of Dxyn, is checked here. -/

namespace Sys2Proof

/-- `n` in Dxyn is an unsigned row count 0 to 15 (spec/30_encoding.md R83). -/
def rowCountOk (n : Nat) : Bool := decide (n ≤ 15)

/-- The well-formed instructions: exactly those with an encoding. -/
def Instr.wellFormed : Instr → Bool
  | .drw _ _ n => rowCountOk n
  | .cls | .ret | .jp _ | .call _ | .seByte _ _ | .sneByte _ _ | .seReg _ _ | .ldByte _ _ | .addByte _ _
  | .ldReg _ _ | .orReg _ _ | .andReg _ _ | .xorReg _ _ | .addReg _ _ | .subReg _ _ | .shr _ _ | .subnReg _ _
  | .shl _ _ | .sneReg _ _ | .ldI _ | .jpV0 _ | .rnd _ _ | .skp _ | .sknp _ | .ldVxDt _ | .ldVxK _ | .ldDtVx _
  | .ldStVx _ | .addI _ | .ldF _ | .ldB _ | .storeRegs _ | .loadRegs _ => true

end Sys2Proof
end

