-- ==== Sys2Proof/Decode.lean ====
section
/-! DEFINITION. The decoder and the encoder (spec/30_encoding.md R80 to R91).

The decoder follows R86: the major opcode `n1`, then, where that is ambiguous, the low nibble or the low byte, each by an exact
pattern (R84). It reads nothing but the word and is total on all 65,536 words (R88); a word of no row is rejected by name. The
opcode map of R85 itself, as match and mask, stands beside it (`opcodeTable`); that the two agree is a statement to prove. -/

namespace Sys2Proof

/-- Why the decoder rejects its input. -/
inductive Reject where
  /-- The word matches no row of R85 (R89). -/
  | unknownOpcode (raw : Word)
  /-- Fewer than the two bytes every instruction has (R80). -/
  | truncated
  deriving DecidableEq, Repr

/-! ## Fields (R81) -/

/-- `n1`, bits 15 to 12. -/
def majorField (w : Word) : BitVec 4 := w.extractLsb' 12 4

/-- `x`, bits 11 to 8. -/
def xField (w : Word) : Reg := ⟨(w.extractLsb' 8 4).toNat, (w.extractLsb' 8 4).isLt⟩

/-- `y`, bits 7 to 4. -/
def yField (w : Word) : Reg := ⟨(w.extractLsb' 4 4).toNat, (w.extractLsb' 4 4).isLt⟩

/-- `n`, bits 3 to 0. -/
def nField (w : Word) : BitVec 4 := w.extractLsb' 0 4

/-- `kk`, bits 7 to 0. -/
def kkField (w : Word) : Byte := w.extractLsb' 0 8

/-- `nnn`, bits 11 to 0. -/
def nnnField (w : Word) : Addr12 := w.extractLsb' 0 12

/-- The word whose first byte, at the lower address, is `hi`: big-endian (R56, D1; notes/assumptions/9.md). -/
def wordOfBytes (hi lo : Byte) : Word := hi ++ lo

/-- The byte of a word that lies at the lower address: bits 15 to 8 (R56). -/
def highByte (w : Word) : Byte := w.extractLsb' 8 8

/-- The byte of a word that lies at the higher address: bits 7 to 0 (R56). -/
def lowByte (w : Word) : Byte := w.extractLsb' 0 8

/-! ## The secondary decode inside each major opcode (R86) -/

/-- `n1 = 0`: only the two whole words 0x00E0 and 0x00EE. -/
def decodeFixed (w : Word) : Except Reject Instr :=
  if w = 0x00E0#16 then .ok .cls
  else if w = 0x00EE#16 then .ok .ret
  else .error (.unknownOpcode w)

/-- `n1 = 5` and `n1 = 9`: the low nibble must be 0 (D26). -/
def decodeNibbleZero (w : Word) (i : Instr) : Except Reject Instr :=
  if nField w = 0x0#4 then .ok i else .error (.unknownOpcode w)

/-- `n1 = 8`: the low nibble selects. -/
def decodeAlu (w : Word) : Except Reject Instr :=
  let x := xField w
  let y := yField w
  if nField w = 0x0#4 then .ok (.ldReg x y)
  else if nField w = 0x1#4 then .ok (.orReg x y)
  else if nField w = 0x2#4 then .ok (.andReg x y)
  else if nField w = 0x3#4 then .ok (.xorReg x y)
  else if nField w = 0x4#4 then .ok (.addReg x y)
  else if nField w = 0x5#4 then .ok (.subReg x y)
  else if nField w = 0x6#4 then .ok (.shr x y)
  else if nField w = 0x7#4 then .ok (.subnReg x y)
  else if nField w = 0xE#4 then .ok (.shl x y)
  else .error (.unknownOpcode w)

/-- `n1 = E`: the low byte selects. -/
def decodeKeySkip (w : Word) : Except Reject Instr :=
  let x := xField w
  if kkField w = 0x9E#8 then .ok (.skp x)
  else if kkField w = 0xA1#8 then .ok (.sknp x)
  else .error (.unknownOpcode w)

/-- `n1 = F`: the low byte selects. -/
def decodeMisc (w : Word) : Except Reject Instr :=
  let x := xField w
  if kkField w = 0x07#8 then .ok (.ldVxDt x)
  else if kkField w = 0x0A#8 then .ok (.ldVxK x)
  else if kkField w = 0x15#8 then .ok (.ldDtVx x)
  else if kkField w = 0x18#8 then .ok (.ldStVx x)
  else if kkField w = 0x1E#8 then .ok (.addI x)
  else if kkField w = 0x29#8 then .ok (.ldF x)
  else if kkField w = 0x33#8 then .ok (.ldB x)
  else if kkField w = 0x55#8 then .ok (.storeRegs x)
  else if kkField w = 0x65#8 then .ok (.loadRegs x)
  else .error (.unknownOpcode w)

/-- `decode(w)` (R88). -/
def decodeWord (w : Word) : Except Reject Instr :=
  if majorField w = 0x0#4 then decodeFixed w
  else if majorField w = 0x1#4 then .ok (.jp (nnnField w))
  else if majorField w = 0x2#4 then .ok (.call (nnnField w))
  else if majorField w = 0x3#4 then .ok (.seByte (xField w) (kkField w))
  else if majorField w = 0x4#4 then .ok (.sneByte (xField w) (kkField w))
  else if majorField w = 0x5#4 then decodeNibbleZero w (.seReg (xField w) (yField w))
  else if majorField w = 0x6#4 then .ok (.ldByte (xField w) (kkField w))
  else if majorField w = 0x7#4 then .ok (.addByte (xField w) (kkField w))
  else if majorField w = 0x8#4 then decodeAlu w
  else if majorField w = 0x9#4 then decodeNibbleZero w (.sneReg (xField w) (yField w))
  else if majorField w = 0xA#4 then .ok (.ldI (nnnField w))
  else if majorField w = 0xB#4 then .ok (.jpV0 (nnnField w))
  else if majorField w = 0xC#4 then .ok (.rnd (xField w) (kkField w))
  else if majorField w = 0xD#4 then .ok (.drw (xField w) (yField w) (nField w).toNat)
  else if majorField w = 0xE#4 then decodeKeySkip w
  else decodeMisc w

/-- The decoder on bytes as memory holds them, the lowest address first (R55, R80): the instruction and the bytes after it. -/
def decode : List Byte → Except Reject (Instr × List Byte)
  | hi :: lo :: rest => (decodeWord (wordOfBytes hi lo)).map (fun i => (i, rest))
  | [_] => .error .truncated
  | [] => .error .truncated

/-- The instruction of a word numbered as spec/opcode_table.json numbers it. Every instruction is one 16-bit word, whose bit 0 is
the table's bit 0; bits at `nbits` and above are 0. The word is laid out as memory holds it and given to `decode`. -/
def decodeTableWord (nbits w : Nat) : Option Instr :=
  let word : Word := BitVec.ofNat 16 (w % 2 ^ nbits)
  match decode [highByte word, lowByte word] with
  | .ok (i, _) => some i
  | .error _ => none

/-! ## The encoder: the five formats of R82, the codes of R85 -/

/-- Format `NNN`. -/
def formatNnn (n1 : BitVec 4) (nnn : Addr12) : Word := n1 ++ nnn

/-- Format `XKK`; format `XFN` is the same layout with the function byte in place of `kk`. -/
def formatXkk (n1 : BitVec 4) (x : Reg) (kk : Byte) : Word := n1 ++ BitVec.ofNat 4 x.val ++ kk

/-- Format `XYN`. -/
def formatXyn (n1 : BitVec 4) (x y : Reg) (n : BitVec 4) : Word :=
  n1 ++ BitVec.ofNat 4 x.val ++ BitVec.ofNat 4 y.val ++ n

/-- The word of an instruction (R82, R85). -/
def encode : Instr → Word
  | .cls => 0x00E0#16
  | .ret => 0x00EE#16
  | .jp nnn => formatNnn 0x1#4 nnn
  | .call nnn => formatNnn 0x2#4 nnn
  | .seByte x kk => formatXkk 0x3#4 x kk
  | .sneByte x kk => formatXkk 0x4#4 x kk
  | .seReg x y => formatXyn 0x5#4 x y 0x0#4
  | .ldByte x kk => formatXkk 0x6#4 x kk
  | .addByte x kk => formatXkk 0x7#4 x kk
  | .ldReg x y => formatXyn 0x8#4 x y 0x0#4
  | .orReg x y => formatXyn 0x8#4 x y 0x1#4
  | .andReg x y => formatXyn 0x8#4 x y 0x2#4
  | .xorReg x y => formatXyn 0x8#4 x y 0x3#4
  | .addReg x y => formatXyn 0x8#4 x y 0x4#4
  | .subReg x y => formatXyn 0x8#4 x y 0x5#4
  | .shr x y => formatXyn 0x8#4 x y 0x6#4
  | .subnReg x y => formatXyn 0x8#4 x y 0x7#4
  | .shl x y => formatXyn 0x8#4 x y 0xE#4
  | .sneReg x y => formatXyn 0x9#4 x y 0x0#4
  | .ldI nnn => formatNnn 0xA#4 nnn
  | .jpV0 nnn => formatNnn 0xB#4 nnn
  | .rnd x kk => formatXkk 0xC#4 x kk
  | .drw x y n => formatXyn 0xD#4 x y (BitVec.ofNat 4 n)
  | .skp x => formatXkk 0xE#4 x 0x9E#8
  | .sknp x => formatXkk 0xE#4 x 0xA1#8
  | .ldVxDt x => formatXkk 0xF#4 x 0x07#8
  | .ldVxK x => formatXkk 0xF#4 x 0x0A#8
  | .ldDtVx x => formatXkk 0xF#4 x 0x15#8
  | .ldStVx x => formatXkk 0xF#4 x 0x18#8
  | .addI x => formatXkk 0xF#4 x 0x1E#8
  | .ldF x => formatXkk 0xF#4 x 0x29#8
  | .ldB x => formatXkk 0xF#4 x 0x33#8
  | .storeRegs x => formatXkk 0xF#4 x 0x55#8
  | .loadRegs x => formatXkk 0xF#4 x 0x65#8

/-- The two bytes of an instruction in the order memory holds them (R56). -/
def encodeBytes (i : Instr) : List Byte := [highByte (encode i), lowByte (encode i)]

/-! ## The opcode map as match and mask (R85) -/

/-- One row of R85: a word selects it exactly when `(w & mask) = value` (R84). -/
structure OpcodeRow where
  value : Word
  mask : Word
  deriving DecidableEq, Repr

/-- Whether a word selects a row (R84). -/
def OpcodeRow.selects (r : OpcodeRow) (w : Word) : Bool := w &&& r.mask == r.value

/-- The 34 rows of R85, in the table's order. -/
def opcodeTable : List OpcodeRow :=
  [⟨0x00E0, 0xFFFF⟩, ⟨0x00EE, 0xFFFF⟩, ⟨0x1000, 0xF000⟩, ⟨0x2000, 0xF000⟩, ⟨0x3000, 0xF000⟩,
   ⟨0x4000, 0xF000⟩, ⟨0x5000, 0xF00F⟩, ⟨0x6000, 0xF000⟩, ⟨0x7000, 0xF000⟩, ⟨0x8000, 0xF00F⟩] ++
  [⟨0x8001, 0xF00F⟩, ⟨0x8002, 0xF00F⟩, ⟨0x8003, 0xF00F⟩, ⟨0x8004, 0xF00F⟩, ⟨0x8005, 0xF00F⟩,
   ⟨0x8006, 0xF00F⟩, ⟨0x8007, 0xF00F⟩, ⟨0x800E, 0xF00F⟩, ⟨0x9000, 0xF00F⟩, ⟨0xA000, 0xF000⟩] ++
  [⟨0xB000, 0xF000⟩, ⟨0xC000, 0xF000⟩, ⟨0xD000, 0xF000⟩, ⟨0xE09E, 0xF0FF⟩, ⟨0xE0A1, 0xF0FF⟩,
   ⟨0xF007, 0xF0FF⟩, ⟨0xF00A, 0xF0FF⟩, ⟨0xF015, 0xF0FF⟩, ⟨0xF018, 0xF0FF⟩, ⟨0xF01E, 0xF0FF⟩,
   ⟨0xF029, 0xF0FF⟩, ⟨0xF033, 0xF0FF⟩, ⟨0xF055, 0xF0FF⟩, ⟨0xF065, 0xF0FF⟩]

/-- The row of R85 each instruction stands in. -/
def Instr.row : Instr → OpcodeRow
  | .cls => ⟨0x00E0, 0xFFFF⟩
  | .ret => ⟨0x00EE, 0xFFFF⟩
  | .jp _ => ⟨0x1000, 0xF000⟩
  | .call _ => ⟨0x2000, 0xF000⟩
  | .seByte _ _ => ⟨0x3000, 0xF000⟩
  | .sneByte _ _ => ⟨0x4000, 0xF000⟩
  | .seReg _ _ => ⟨0x5000, 0xF00F⟩
  | .ldByte _ _ => ⟨0x6000, 0xF000⟩
  | .addByte _ _ => ⟨0x7000, 0xF000⟩
  | .ldReg _ _ => ⟨0x8000, 0xF00F⟩
  | .orReg _ _ => ⟨0x8001, 0xF00F⟩
  | .andReg _ _ => ⟨0x8002, 0xF00F⟩
  | .xorReg _ _ => ⟨0x8003, 0xF00F⟩
  | .addReg _ _ => ⟨0x8004, 0xF00F⟩
  | .subReg _ _ => ⟨0x8005, 0xF00F⟩
  | .shr _ _ => ⟨0x8006, 0xF00F⟩
  | .subnReg _ _ => ⟨0x8007, 0xF00F⟩
  | .shl _ _ => ⟨0x800E, 0xF00F⟩
  | .sneReg _ _ => ⟨0x9000, 0xF00F⟩
  | .ldI _ => ⟨0xA000, 0xF000⟩
  | .jpV0 _ => ⟨0xB000, 0xF000⟩
  | .rnd _ _ => ⟨0xC000, 0xF000⟩
  | .drw _ _ _ => ⟨0xD000, 0xF000⟩
  | .skp _ => ⟨0xE09E, 0xF0FF⟩
  | .sknp _ => ⟨0xE0A1, 0xF0FF⟩
  | .ldVxDt _ => ⟨0xF007, 0xF0FF⟩
  | .ldVxK _ => ⟨0xF00A, 0xF0FF⟩
  | .ldDtVx _ => ⟨0xF015, 0xF0FF⟩
  | .ldStVx _ => ⟨0xF018, 0xF0FF⟩
  | .addI _ => ⟨0xF01E, 0xF0FF⟩
  | .ldF _ => ⟨0xF029, 0xF0FF⟩
  | .ldB _ => ⟨0xF033, 0xF0FF⟩
  | .storeRegs _ => ⟨0xF055, 0xF0FF⟩
  | .loadRegs _ => ⟨0xF065, 0xF0FF⟩

end Sys2Proof
end

