-- ==== Sys2Proof/Config.lean ====
section
/-! DEFINITION. The implementation parameters of spec/00_scope.md R7 and the free values.

VF_ORDER, KEYWAIT_TRIGGER and FONT are arguments of the whole model: a record `Params` of plain data that every
state carries and nothing changes (notes/assumptions/1.md). RNG and KEYPICK are free draws: constants without a body, applied
to a counter of the state (notes/assumptions/2.md, 3.md). CYCLE_HZ and TIMER_HZ are read by no rule (notes/assumptions/4.md). -/

namespace Sys2Proof

/-- Parameter `VF_ORDER` (R7, R34): which of the flag write and the result write of 8xy4 to 8xyE lands last. -/
inductive VfOrder where
  /-- `V[15] <- flag`, then `V[x] <- result` (the spec's default). -/
  | resultLast
  /-- `V[x] <- result`, then `V[15] <- flag`. -/
  | flagLast
  deriving DecidableEq, Repr

/-- Parameter `KEYWAIT_TRIGGER` (R7, R214, R215): which keys complete the wait of Fx0A. -/
inductive KeyTrigger where
  /-- A key pressed now and not pressed at the previous poll (the spec's default). -/
  | edge
  /-- Any key held, at entry too. -/
  | level
  deriving DecidableEq, Repr

/-- The parameters of the whole model that some rule reads (R7). -/
structure Params where
  vfOrder : VfOrder
  keyTrigger : KeyTrigger
  /-- Parameter `FONT`: the 80 bytes `load_font()` writes (R60). -/
  font : Vector Byte 80
  deriving DecidableEq, Repr

namespace Config

/-- The default of `FONT`: the glyph table of spec/20_memory.md R60, one glyph a line, 0 to F. UNVERIFIED: the spec takes it from
general knowledge (D18; notes/assumptions/18.md). -/
def standardFont : Vector Byte 80 :=
  #v[
    0xF0, 0x90, 0x90, 0x90, 0xF0,
    0x20, 0x60, 0x20, 0x20, 0x70,
    0xF0, 0x10, 0xF0, 0x80, 0xF0,
    0xF0, 0x10, 0xF0, 0x10, 0xF0,
    0x90, 0x90, 0xF0, 0x10, 0x10,
    0xF0, 0x80, 0xF0, 0x10, 0xF0,
    0xF0, 0x80, 0xF0, 0x90, 0xF0,
    0xF0, 0x10, 0x20, 0x40, 0x40,
    0xF0, 0x90, 0xF0, 0x90, 0xF0,
    0xF0, 0x90, 0xF0, 0x10, 0xF0,
    0xF0, 0x90, 0xF0, 0x90, 0x90,
    0xE0, 0x90, 0xE0, 0x90, 0xE0,
    0xF0, 0x80, 0x80, 0x80, 0xF0,
    0xE0, 0x90, 0x90, 0x90, 0xE0,
    0xF0, 0x80, 0xF0, 0x80, 0xF0,
    0xF0, 0x80, 0xF0, 0x80, 0x80]

/-- The defaults R7 names: `ResultLast`, `Edge` and the table of R60. -/
def defaultParams : Params :=
  { vfOrder := .resultLast, keyTrigger := .edge, font := standardFont }

/-- `RNG` (R7, R100, D19): the n-th random byte a run draws. A FREE VALUE: nothing in Lean constrains it. -/
opaque freeByte : Nat → Byte

/-- `KEYPICK` (R7, R100, R215, D13): the key index `kd` of the n-th draw. A FREE VALUE: nothing in Lean constrains it. -/
opaque freeKey : Nat → Key

/-- `CYCLE_HZ` (R7, D30): the instruction rate, a positive number the source leaves open; no rule reads it. A FREE VALUE. DESIGN CHOICE:
R7 says a positive number, and the type here takes whole numbers of Hz only (notes/assumptions/4.md). -/
opaque cycleHz : ℕ+

/-- `TIMER_HZ` (R7): 60, the rate at which the host calls `tick_timers()`; no rule reads it. -/
def timerHz : Nat := 60

end Config

end Sys2Proof
end

