-- ==== Sys2Proof/Machine/State.lean ====
section
/-! DEFINITION. The state of CORE (spec/10_state.md R20 to R41) as plain data, the fatal statuses (spec/60_exceptions.md R230), and
the state after reset (spec/70_reset_and_hazards.md R260). -/

namespace Sys2Proof.Machine

/-- The fatal statuses of `cycle()` (R230), each with the information it records. -/
inductive FatalStatus where
  /-- `Halted(OutOfBounds)`, raised as `OutOfBoundsFetch`; the address stays in `pc` (R231). -/
  | outOfBounds
  /-- `Error(UnknownOpcode(raw, pc))` (R232). -/
  | unknownOpcode (raw pc : Word)
  /-- `Error(StackOverflow)` (R233). -/
  | stackOverflow
  /-- `Error(StackUnderflow)` (R233). -/
  | stackUnderflow
  /-- `Error(KeyIndexOutOfRange(v, pc))` (R236). -/
  | keyIndexOutOfRange (v : Byte) (pc : Word)
  deriving DecidableEq, Repr

/-- The handler state machine (R31). -/
inductive Mode where
  /-- The next `cycle()` fetches at `pc`. -/
  | run
  /-- The key-wait of Fx0A. -/
  | awaitKey
  /-- A fatal status was returned; it is held here. -/
  | halted (s : FatalStatus)
  deriving DecidableEq, Repr

/-- What one `cycle()` returns (R101, R230). -/
inductive Status where
  | continuing
  | awaitingKey
  | fatal (s : FatalStatus)
  deriving DecidableEq, Repr

/-- The reasons a step of this model stops with the host's `fault`: NONE. Every exception of CORE is a fatal status whose entry the
spec describes (R234), so the step that takes it answers a next state, the halted one, and a halted `cycle()` is a step that
changes nothing (R235). No step raises a fault, so the type has no constructor; nothing is lost or gained by it, it is safe
(notes/assumptions/7.md). -/
inductive Fault where
  deriving DecidableEq, Repr

/-- The reasons this model refuses. -/
inductive Refusal where
  /-- Raised by an arm of `exec` for an instruction without a meaning yet (no arm does); safe: the model stops. -/
  | notModelled (mnemonic : String)
  /-- Raised by the host transaction `load_program` alone, on more than 3584 bytes: the spec makes that no move the host can make
  (R263, D21). No `step` raises it. Unsafe for a host that breaks the obligation: a real machine does something then
  (notes/assumptions/20.md). -/
  | programTooLong
  deriving DecidableEq, Repr

/-- The framebuffer, column first: `FB[c][r]`, columns 0 to 63, rows 0 to 31 (R38). -/
abbrev FrameBuffer := Vector (Vector Bool 32) 64

/-- Memory as address and byte pairs in one canonical form (`Memory.wf` in Machine/Ops.lean). -/
abbrev Memory := List Host.Cell

/-- The whole of CORE's state (R41), and the model's own two fields `params` and `draws`. -/
structure State where
  /-- The model's own: the parameters of R7. No transaction changes them (notes/assumptions/1.md). -/
  params : Params
  /-- `V[0..15]` (R20). -/
  v : Vector Byte 16
  /-- The index register `I` (R35). -/
  i : Word
  /-- The program counter (R23). -/
  pc : Word
  /-- `STACK[0..15]` (R36). -/
  stack : Vector Word 16
  /-- The stack depth `SP`, 0 to 16 (R33). -/
  sp : Fin 17
  /-- The delay timer `DT` (R28). -/
  dt : Byte
  /-- The sound timer `ST` (R29). -/
  st : Byte
  /-- The input latch `KEYS[0..15]`, true meaning pressed (R37). -/
  keys : Vector Bool 16
  /-- The framebuffer `FB` (R38). -/
  fb : FrameBuffer
  /-- `MEM[0..4095]` (R39). -/
  mem : Memory
  /-- The state of the handler state machine (R31). -/
  mode : Mode
  /-- `KW_REG`: the x of the Fx0A being waited on (R32). -/
  kwReg : Reg
  /-- `KW_PREV[0..15]`: the key states at the previous poll (R32). -/
  kwPrev : Vector Bool 16
  /-- The model's own: how many free draws the run has used (notes/assumptions/2.md). -/
  draws : Nat
  deriving DecidableEq, Repr

/-- The state `reset()` leaves (R260; the values at a glance: spec/10_state.md section 8). `pc` is the source's value; the others are
the spec's decision D16 (notes/assumptions/5.md, 6.md). The font is not loaded. The parameters are at the spec's defaults (R7). -/
def State.reset : State :=
  { params := Config.defaultParams
    v := Vector.replicate 16 0
    i := 0
    pc := 0x200
    stack := Vector.replicate 16 0
    sp := 0
    dt := 0
    st := 0
    keys := Vector.replicate 16 false
    fb := Vector.replicate 64 (Vector.replicate 32 false)
    mem := []
    mode := .run
    kwReg := 0
    kwPrev := Vector.replicate 16 false
    draws := 0 }

end Sys2Proof.Machine
end

