-- ==== Sys2Proof/Machine/Ops.lean ====
section
/-! DEFINITION. The named operations over CORE's state: one update per field, the register file, memory in its canonical form, the
fetch, the call stack, taking a fatal status and the way out of it, the framebuffer, the free draws. -/

namespace Sys2Proof.Machine

/-- What a `cycle()` of this model answers. -/
abbrev Answer := Host.Outcome State Fault Refusal

/-! ## One update per field -/

def State.setV (s : State) (v : Vector Byte 16) : State := { s with v := v }
def State.setI (s : State) (a : Word) : State := { s with i := a }
def State.setPc (s : State) (a : Word) : State := { s with pc := a }
def State.setStack (s : State) (k : Vector Word 16) (sp : Fin 17) : State := { s with stack := k, sp := sp }
def State.setDt (s : State) (b : Byte) : State := { s with dt := b }
def State.setSt (s : State) (b : Byte) : State := { s with st := b }
def State.setKeys (s : State) (k : Vector Bool 16) : State := { s with keys := k }
def State.setFb (s : State) (f : FrameBuffer) : State := { s with fb := f }
def State.setMem (s : State) (m : Memory) : State := { s with mem := m }
def State.setMode (s : State) (m : Mode) : State := { s with mode := m }
def State.setKeyWait (s : State) (x : Reg) (prev : Vector Bool 16) : State := { s with kwReg := x, kwPrev := prev }
/-- One more free draw has been used. -/
def State.useDraw (s : State) : State := { s with draws := s.draws + 1 }

/-! ## General registers (R10, R20) -/

/-- `V[x]`. -/
def State.reg (s : State) (x : Reg) : Byte := s.v[x.val]

/-- `V[x] <- b`. No register is hard-wired (R20). -/
def State.setReg (s : State) (x : Reg) (b : Byte) : State := s.setV (s.v.set x.val b)

/-- The number of VF, the flag register (R10, R21). -/
def vf : Reg := 15

/-! ## The program counter (R24): sums are taken mod 65536 (D27) -/

/-- `nxt`: the address of the next word. -/
def State.nextPc (s : State) : Word := s.pc + 2

/-- `skp`: the address of the word after the next one (R140). -/
def State.skipPc (s : State) : Word := s.pc + 4

/-- `pc <- nxt`, with `nxt` taken from the state `s0` in which the instruction started (R24). -/
def State.advance (s s0 : State) : State := s.setPc s0.nextPc

/-- A skip: `pc <- skp` when the condition holds, `pc <- nxt` otherwise (R24, R140). -/
def State.skipIf (s : State) (c : Bool) : State := s.setPc (if c then s.skipPc else s.nextPc)

/-! ## Memory (spec/20_memory.md R50 to R59) -/

/-- What a byte that nothing has written reads as: its reset value, 0 (R39, R63, R260; notes/assumptions/6.md). -/
def Memory.unlisted : Byte := 0

/-- The number of bytes of the address space (R50). -/
def memSize : Nat := 4096

/-- The canonical form: addresses strictly rising and inside the space, and no entry equal to what an unlisted address reads as. -/
abbrev Memory.wf (m : Memory) : Prop :=
  m.Pairwise (fun c d => c.1 < d.1) ∧ ∀ c ∈ m, c.1 < memSize ∧ c.2 ≠ Memory.unlisted

/-- The byte listed at an address, or what an unlisted one reads as. -/
def Memory.read : Memory → Nat → Byte
  | [], _ => Memory.unlisted
  | (a', b') :: rest, a => if a = a' then b' else Memory.read rest a

/-- Put a byte before the entries of higher addresses, unless it is what an unlisted address reads as. -/
def Memory.put (m : Memory) (a : Nat) (b : Byte) : Memory :=
  if b = Memory.unlisted then m else (a, b) :: m

/-- Write one byte, keeping the canonical form. -/
def Memory.write : Memory → Nat → Byte → Memory
  | [], a, b => Memory.put [] a b
  | (a', b') :: rest, a, b =>
    if a < a' then Memory.put ((a', b') :: rest) a b
    else if a = a' then Memory.put rest a b
    else (a', b') :: Memory.write rest a b

/-- The 12-bit address an integer address is reduced to (R53, D3; notes/assumptions/11.md). -/
def dataAddr (a : Nat) : Nat := a % memSize

/-- `MemRead(addr, 1)` (R53). Never faults. -/
def State.memRead (s : State) (a : Nat) : Byte := s.mem.read (dataAddr a)

/-- `MemWrite(addr, 1, v)` (R54). Never faults. -/
def State.memWrite (s : State) (a : Nat) (b : Byte) : State := s.setMem (s.mem.write (dataAddr a) b)

/-- Byte writes at rising addresses, the first at `a` (R262, R263). -/
def State.writeBytes (s : State) (a : Nat) : List Byte → State
  | [] => s
  | b :: rest => (s.memWrite a b).writeBytes (a + 1) rest

/-- The highest address a word can be fetched from (R55, D2; notes/assumptions/10.md). -/
def lastFetch : Word := 0xFFE

/-- `Fetch(pc)`: validated, not masked; the byte at the lower address is the high byte (R55, R56). Any `pc` up to 0xFFE, odd or
even (R57). -/
def State.fetch (s : State) : Except FatalStatus Word :=
  if s.pc > lastFetch then .error .outOfBounds
  else .ok (wordOfBytes (s.memRead s.pc.toNat) (s.memRead (s.pc.toNat + 1)))

/-! ## The call stack (R36, R130, R131) -/

/-- `push(a)`: the check comes before any write (R130). -/
def State.push (s : State) (a : Word) : Except FatalStatus State :=
  if h : s.sp.val < 16 then .ok (s.setStack (s.stack.set s.sp.val a) ⟨s.sp.val + 1, by omega⟩)
  else .error .stackOverflow

/-- `pop()`: the value and the state after it; a failing pop changes nothing (R131). The entry popped stays as a dead one (R36). -/
def State.pop (s : State) : Except FatalStatus (Word × State) :=
  if h : 0 < s.sp.val then
    .ok (s.stack[s.sp.val - 1]'(by omega), s.setStack s.stack ⟨s.sp.val - 1, by omega⟩)
  else .error .stackUnderflow

/-! ## Taking a fatal status, and leaving it (R12, R234, R240) -/

/-- `raise`: halt entry (R234). Nothing but `mode` changes: `pc` keeps the address of the faulting instruction, nothing is saved
anywhere else, control goes to no handler. -/
def raise (f : FatalStatus) (s : State) : Answer := .next (s.setMode (.halted f))

/-- The end of a handler that checks before it writes (R12): its new state, or the fatal status taken on the state it started in. -/
def orRaise (s : State) (r : Except FatalStatus State) : Answer :=
  match r with
  | .ok t => .next t
  | .error f => raise f s

/-- `reset()`, the only way out of a halt (R240, R260): every item of the spec's state at its reset value. The model's own fields,
the machine's parameters and the count of draws used, are no item of R260 and stay. -/
def reinit (s : State) : State := { State.reset with params := s.params, draws := s.draws }

/-! ## The framebuffer (R38) -/

/-- `FB[c][r]`. -/
def FrameBuffer.pixel (f : FrameBuffer) (c : Fin 64) (r : Fin 32) : Bool := f[c.val][r.val]

/-- `FB[c][r] <- b`. -/
def FrameBuffer.setPixel (f : FrameBuffer) (c : Fin 64) (r : Fin 32) (b : Bool) : FrameBuffer :=
  f.set c.val (f[c.val].set r.val b)

/-- Every cell false (R110). -/
def FrameBuffer.blank : FrameBuffer := Vector.replicate 64 (Vector.replicate 32 false)

/-! ## The free draws (R7, R100) -/

/-- `rnd`: the random byte of this draw (R171). -/
def State.rndDraw (s : State) : Byte := Config.freeByte s.draws

/-- `kd`: the key index of this draw (R215). -/
def State.keyDraw (s : State) : Key := Config.freeKey s.draws

end Sys2Proof.Machine
end

