-- ==== Sys2Proof/Machine/Operands.lean ====
section
/-! DEFINITION. The operand forms of CORE: the addressing forms of spec/43_index_memory.md R196, the widening of an address
(spec/30_encoding.md R83), and the key a register names (spec/44_keys_timers.md R210). -/

namespace Sys2Proof.Machine

/-- `zext_16(nnn)` (R83). -/
def zextAddr (nnn : Addr12) : Word := nnn.setWidth 16

/-- `zext_16` of a byte (R9, R83). -/
def zextByte (b : Byte) : Word := b.setWidth 16

/-- The integer address `I + k` of access k of an instruction; the memory operations reduce it (R58, R196). -/
def State.indexAddr (s : State) (k : Nat) : Nat := s.i.toNat + k

/-- The byte of access k, relative to `I` (R196). -/
def State.readIndexed (s : State) (k : Nat) : Byte := s.memRead (s.indexAddr k)

/-- The byte write of access k, relative to `I` (R196). -/
def State.writeIndexed (s : State) (k : Nat) (b : Byte) : State := s.memWrite (s.indexAddr k) b

/-- `KeyIndex(v)`: the key a register value names; a value above 15 is a fatal status (R210, D12; notes/assumptions/15.md). -/
def State.keyIndex (s : State) (b : Byte) : Except FatalStatus Key :=
  if h : b.toNat < 16 then .ok ⟨b.toNat, h⟩ else .error (.keyIndexOutOfRange b s.pc)

/-- `KEYS[k]` (R37). -/
def State.keyDown (s : State) (k : Key) : Bool := s.keys[k.val]

end Sys2Proof.Machine
end

