-- ==== Sys2Proof/Machine/Flags.lean ====
section
/-! DEFINITION. Every flag computation of CORE (spec/10_state.md R26) and the write of flag and result (R34). VF is the only flag
register; each flag is a whole byte, 0 or 1. -/

namespace Sys2Proof.Machine

/-- A condition as the byte VF takes: 1 if it holds, else 0 (R26). -/
def flagByte (c : Bool) : Byte := if c then 1 else 0

/-- 8xy4: the carry out of bit 7 of the exact sum (R166). -/
def carryFlag (a b : Byte) : Byte := flagByte (decide (a.toNat + b.toNat > 255))

/-- 8xy5 and 8xy7: 1 when no borrow occurs, equality included (R167, R169). -/
def noBorrowFlag (minuend subtrahend : Byte) : Byte := flagByte (decide (minuend.toNat ≥ subtrahend.toNat))

/-- 8xy6: the old bit 0 (R168). -/
def shiftRightFlag (a : Byte) : Byte := a &&& 1

/-- 8xyE: the old bit 7 (R170). -/
def shiftLeftFlag (a : Byte) : Byte := (a >>> 7) &&& 1

/-- `WriteFR(flag, result)`: both registers, in the order `VF_ORDER` selects (R34, D6). The two orders differ only when x = 15. -/
def State.writeFlagResult (s : State) (x : Reg) (flag result : Byte) : State :=
  match s.params.vfOrder with
  | .resultLast => (s.setReg vf flag).setReg x result
  | .flagLast => (s.setReg x result).setReg vf flag

end Sys2Proof.Machine
end

