-- ==== Sys2Proof/Machine/ControlFlow.lean ====
section
/-! DEFINITION. The control-transfer instructions (spec/41_control_flow.md R132 to R141). -/

namespace Sys2Proof.Machine

/-- 00EE `RET` (R132): `pc <- pop()`, with no adjustment (D5; notes/assumptions/12.md). -/
def execRet (s : State) : Answer := orRaise s (s.pop.map (fun r => r.2.setPc r.1))

/-- 1nnn `JP addr` (R133). -/
def execJp (nnn : Addr12) (s : State) : Answer := .next (s.setPc (zextAddr nnn))

/-- 2nnn `CALL addr` (R134): the return address pushed is `pc + 2` (D5; notes/assumptions/12.md). -/
def execCall (nnn : Addr12) (s : State) : Answer :=
  orRaise s ((s.push s.nextPc).map (fun t => t.setPc (zextAddr nnn)))

/-- 3xkk `SE Vx, byte` (R135). -/
def execSeByte (x : Reg) (kk : Byte) (s : State) : Answer := .next (s.skipIf (s.reg x == kk))

/-- 4xkk `SNE Vx, byte` (R136). -/
def execSneByte (x : Reg) (kk : Byte) (s : State) : Answer := .next (s.skipIf (s.reg x != kk))

/-- 5xy0 `SE Vx, Vy` (R137). -/
def execSeReg (x y : Reg) (s : State) : Answer := .next (s.skipIf (s.reg x == s.reg y))

/-- 9xy0 `SNE Vx, Vy` (R138). -/
def execSneReg (x y : Reg) (s : State) : Answer := .next (s.skipIf (s.reg x != s.reg y))

/-- Bnnn `JP V0, addr` (R139): the register is always V0; the sum is not reduced to 12 bits (D27; notes/assumptions/22.md). -/
def execJpV0 (nnn : Addr12) (s : State) : Answer := .next (s.setPc (zextAddr nnn + zextByte (s.reg 0)))

end Sys2Proof.Machine
end

