-- ==== Sys2Proof/Machine/Display.lean ====
section
/-! DEFINITION. The display instructions 00E0 and Dxyn, and the XOR compositor (spec/40_display.md R110 to R113). -/

namespace Sys2Proof.Machine

/-- 00E0 `CLS` (R110). -/
def execCls (s : State) : Answer := .next ((s.setFb FrameBuffer.blank).advance s)

/-- Column c of a sprite row byte, 0 the leftmost, is bit `7 - c` (R112, D10; notes/assumptions/14.md). -/
def spriteBit (b : Byte) (c : Nat) : Bool := b.getLsbD (7 - c)

/-- The screen column of sprite column c: `(vx + c) mod 64` (R111). -/
def screenColumn (vx : Byte) (c : Nat) : Fin 64 := ⟨(vx.toNat + c) % 64, Nat.mod_lt _ (by decide)⟩

/-- The screen row of sprite row r: `(vy + r) mod 32` (R111). -/
def screenRow (vy : Byte) (r : Nat) : Fin 32 := ⟨(vy.toNat + r) % 32, Nat.mod_lt _ (by decide)⟩

/-- One cell: XOR with the source bit; a set cell that becomes clear is a collision (R111). The pair is the framebuffer and the
collision so far. -/
def xorCell (c : Fin 64) (r : Fin 32) (bit : Bool) (acc : FrameBuffer × Bool) : FrameBuffer × Bool :=
  (acc.1.setPixel c r (xor (acc.1.pixel c r) bit), acc.2 || (bit && acc.1.pixel c r))

/-- The first `k` of the columns of sprite row r, whose byte is b, in rising order (R111). -/
def xorColumns (vx vy : Byte) (r : Nat) (b : Byte) : Nat → FrameBuffer × Bool → FrameBuffer × Bool
  | 0, acc => acc
  | k + 1, acc => xorCell (screenColumn vx k) (screenRow vy r) (spriteBit b k) (xorColumns vx vy r b k acc)

/-- The first `n` rows of the sprite at `I`, in rising order, each read by `MemRead(I + r, 1)` (R111, R59). -/
def xorRows (s : State) (vx vy : Byte) : Nat → FrameBuffer × Bool → FrameBuffer × Bool
  | 0, acc => acc
  | r + 1, acc => xorColumns vx vy r (s.readIndexed r) 8 (xorRows s vx vy r acc)

/-- Dxyn `DRW Vx, Vy, nibble` (R111). The coordinates are captured before VF is written. -/
def execDrw (x y : Reg) (n : Nat) (s : State) : Answer :=
  let drawn := xorRows s (s.reg x) (s.reg y) n (s.fb, false)
  .next (((s.setFb drawn.1).setReg vf (flagByte drawn.2)).advance s)

end Sys2Proof.Machine
end

