-- ==== Sys2Proof/Machine/IndexMemory.lean ====
section
/-! DEFINITION. The index register and the memory transfers (spec/43_index_memory.md R190 to R196). No instruction here changes I as
a side effect of an access (D8; notes/assumptions/13.md). -/

namespace Sys2Proof.Machine

/-- Annn `LD I, addr` (R190). -/
def execLdI (nnn : Addr12) (s : State) : Answer := .next ((s.setI (zextAddr nnn)).advance s)

/-- Fx1E `ADD I, Vx` (R191): mod 65536, no flag. -/
def execAddI (x : Reg) (s : State) : Answer := .next ((s.setI (s.i + zextByte (s.reg x))).advance s)

/-- Fx29 `LD F, Vx` (R192): `I <- vx * 5`, not reduced to a nibble; at most 1275. -/
def execLdF (x : Reg) (s : State) : Answer := .next ((s.setI (BitVec.ofNat 16 ((s.reg x).toNat * 5))).advance s)

/-- The hundreds digit of a byte (R193). -/
def hundredsDigit (b : Byte) : Byte := BitVec.ofNat 8 (b.toNat / 100)

/-- The tens digit of a byte (R193). -/
def tensDigit (b : Byte) : Byte := BitVec.ofNat 8 (b.toNat / 10 % 10)

/-- The ones digit of a byte (R193). -/
def onesDigit (b : Byte) : Byte := BitVec.ofNat 8 (b.toNat % 10)

/-- Fx33 `LD B, Vx` (R193). -/
def execLdB (x : Reg) (s : State) : Answer :=
  let b := s.reg x
  .next ((((s.writeIndexed 0 (hundredsDigit b)).writeIndexed 1 (tensDigit b)).writeIndexed 2 (onesDigit b)).advance s)

/-- Store the first `k` general registers at I, in rising order (R194). -/
def State.storeFirst (s : State) : Nat → State
  | 0 => s
  | k + 1 => (s.storeFirst k).writeIndexed k (s.reg (Fin.ofNat 16 k))

/-- Fx55 `LD [I], Vx` (R194): x + 1 bytes. -/
def execStoreRegs (x : Reg) (s : State) : Answer := .next ((s.storeFirst (x.val + 1)).advance s)

/-- Load the first `k` general registers from I, in rising order (R195). -/
def State.loadFirst (s : State) : Nat → State
  | 0 => s
  | k + 1 => (s.loadFirst k).setReg (Fin.ofNat 16 k) (s.readIndexed k)

/-- Fx65 `LD Vx, [I]` (R195): x + 1 bytes. -/
def execLoadRegs (x : Reg) (s : State) : Answer := .next ((s.loadFirst (x.val + 1)).advance s)

end Sys2Proof.Machine
end

