-- ==== Sys2Proof/Machine/KeysTimers.lean ====
section
/-! DEFINITION. The key and timer instructions and the key-wait (spec/44_keys_timers.md R210 to R217). The literal sentence of R218 on
the state these instructions reach is read as notes/assumptions/29.md says. -/

namespace Sys2Proof.Machine

/-- Ex9E `SKP Vx` (R211). -/
def execSkp (x : Reg) (s : State) : Answer :=
  orRaise s ((s.keyIndex (s.reg x)).map (fun k => s.skipIf (s.keyDown k)))

/-- ExA1 `SKNP Vx` (R212). -/
def execSknp (x : Reg) (s : State) : Answer :=
  orRaise s ((s.keyIndex (s.reg x)).map (fun k => s.skipIf (!s.keyDown k)))

/-- Fx07 `LD Vx, DT` (R213). -/
def execLdVxDt (x : Reg) (s : State) : Answer := .next ((s.setReg x s.dt).advance s)

/-- Fx15 `LD DT, Vx` (R216). -/
def execLdDtVx (x : Reg) (s : State) : Answer := .next ((s.setDt (s.reg x)).advance s)

/-- Fx18 `LD ST, Vx` (R217). -/
def execLdStVx (x : Reg) (s : State) : Answer := .next ((s.setSt (s.reg x)).advance s)

/-- Every key held now (R214, R215 under `Level`). -/
def State.keysHeld (s : State) : List Key := (List.finRange 16).filter (fun k => s.keys[k.val])

/-- Every key held now and not at the previous poll (R215 under `Edge`). -/
def State.keysPressed (s : State) : List Key :=
  (List.finRange 16).filter (fun k => s.keys[k.val] && !s.kwPrev[k.val])

/-- `N`: the keys that qualify at a poll (R215). -/
def State.qualifying (s : State) : List Key :=
  match s.params.keyTrigger with
  | .edge => s.keysPressed
  | .level => s.keysHeld

/-- `Pick(N, kd) = if kd ∈ N then kd else min N`, for the N whose members are `k` and `ks` (R215, D13). -/
def pickKey (k : Key) (ks : List Key) (kd : Key) : Key := if kd ∈ k :: ks then kd else ks.foldl min k

/-- The capture of a key by the wait whose destination is x: the index into `V[x]`, then `pc <- pc + 2` (R214, R215). -/
def State.captureKey (s : State) (x : Reg) (k : Key) : State := (s.setReg x (BitVec.ofNat 8 k.val)).advance s

/-- The entry into the wait (R214): `KW_REG <- x; KW_PREV <- KEYS; mode <- AwaitKey`; pc is unchanged. -/
def State.enterKeyWait (s : State) (x : Reg) : State := (s.setKeyWait x s.keys).setMode .awaitKey

/-- Fx0A with the draw `kd` given (R214). -/
def State.keyWaitWith (s : State) (x : Reg) (kd : Key) : State :=
  match s.params.keyTrigger with
  | .edge => s.enterKeyWait x
  | .level =>
    match s.keysHeld with
    | [] => s.enterKeyWait x
    | k :: ks => (s.captureKey x (pickKey k ks kd)).useDraw

/-- Fx0A `LD Vx, K` (R214): the entry, made by the cycle that executes the word. -/
def execLdVxK (x : Reg) (s : State) : Answer := .next (s.keyWaitWith x s.keyDraw)

/-- `KeyWaitPoll(kd)` (R215): the body of a `cycle()` in AwaitKey, with the draw `kd` given. -/
def State.pollWith (s : State) (kd : Key) : State :=
  match s.qualifying with
  | [] => s.setKeyWait s.kwReg s.keys
  | k :: ks => ((s.captureKey s.kwReg (pickKey k ks kd)).setMode .run).useDraw

/-- `KeyWaitPoll` with this run's next free draw (D13; notes/assumptions/3.md). -/
def State.keyWaitPoll (s : State) : State := s.pollWith s.keyDraw

end Sys2Proof.Machine
end

