-- ==== Sys2Proof/Machine/RegisterAlu.lean ====
section
/-! DEFINITION. Register loads, arithmetic, logic, shifts and random (spec/42_register_alu.md R160 to R172). Operands are captured
before any write (R13): every operand is read from the state `s` the instruction started in. -/

namespace Sys2Proof.Machine

/-- An instruction that writes one register and no flag, then `pc <- nxt`. -/
def State.writeResult (s : State) (x : Reg) (r : Byte) : State := (s.setReg x r).advance s

/-- An instruction that writes a flag and a result, then `pc <- nxt` (R34). -/
def State.writeArith (s : State) (x : Reg) (flag result : Byte) : State := (s.writeFlagResult x flag result).advance s

/-- 6xkk `LD Vx, byte` (R160). -/
def execLdByte (x : Reg) (kk : Byte) (s : State) : Answer := .next (s.writeResult x kk)

/-- 7xkk `ADD Vx, byte` (R161): mod 256, the carry is discarded. -/
def execAddByte (x : Reg) (kk : Byte) (s : State) : Answer := .next (s.writeResult x (s.reg x + kk))

/-- 8xy0 `LD Vx, Vy` (R162). -/
def execLdReg (x y : Reg) (s : State) : Answer := .next (s.writeResult x (s.reg y))

/-- 8xy1 `OR Vx, Vy` (R163). -/
def execOrReg (x y : Reg) (s : State) : Answer := .next (s.writeResult x (s.reg x ||| s.reg y))

/-- 8xy2 `AND Vx, Vy` (R164). -/
def execAndReg (x y : Reg) (s : State) : Answer := .next (s.writeResult x (s.reg x &&& s.reg y))

/-- 8xy3 `XOR Vx, Vy` (R165). -/
def execXorReg (x y : Reg) (s : State) : Answer := .next (s.writeResult x (s.reg x ^^^ s.reg y))

/-- 8xy4 `ADD Vx, Vy` (R166). -/
def execAddReg (x y : Reg) (s : State) : Answer :=
  .next (s.writeArith x (carryFlag (s.reg x) (s.reg y)) (s.reg x + s.reg y))

/-- 8xy5 `SUB Vx, Vy` (R167). -/
def execSubReg (x y : Reg) (s : State) : Answer :=
  .next (s.writeArith x (noBorrowFlag (s.reg x) (s.reg y)) (s.reg x - s.reg y))

/-- 8xy6 `SHR Vx` (R168); y is ignored (R90). -/
def execShr (x _y : Reg) (s : State) : Answer :=
  .next (s.writeArith x (shiftRightFlag (s.reg x)) (s.reg x >>> 1))

/-- 8xy7 `SUBN Vx, Vy` (R169). -/
def execSubnReg (x y : Reg) (s : State) : Answer :=
  .next (s.writeArith x (noBorrowFlag (s.reg y) (s.reg x)) (s.reg y - s.reg x))

/-- 8xyE `SHL Vx` (R170); y is ignored (R90). -/
def execShl (x _y : Reg) (s : State) : Answer :=
  .next (s.writeArith x (shiftLeftFlag (s.reg x)) (s.reg x <<< 1))

/-- Cxkk with the draw `rnd` given (R171). -/
def State.rndWith (s : State) (x : Reg) (kk rnd : Byte) : State := s.writeResult x (rnd &&& kk)

/-- Cxkk `RND Vx, byte` (R171): the random byte is this run's next free draw (D19; notes/assumptions/2.md). -/
def execRnd (x : Reg) (kk : Byte) (s : State) : Answer := .next (s.rndWith x kk s.rndDraw).useDraw

end Sys2Proof.Machine
end

