-- ==== Sys2Proof/Machine/Cycle.lean ====
section
/-! DEFINITION. `cycle()`: fetch, decode, dispatch and the handler state machine (spec/30_encoding.md R100 to R104), and the status it
returns (R101; spec/60_exceptions.md R230). -/

namespace Sys2Proof.Machine

/-- The body of a `cycle()` in state Run (R100): the fetch bound, then decode, then the handler (R238). -/
def State.runCycle (s : State) : Answer :=
  match s.fetch with
  | .error f => raise f s
  | .ok w =>
    match decodeWord w with
    | .error _ => raise (.unknownOpcode w s.pc) s
    | .ok i => exec i s

/-- `cycle()` (R100): a halted core changes nothing (R235), a waiting one polls (R215), a running one executes one instruction. -/
def State.cycle (s : State) : Answer :=
  match s.mode with
  | .halted _ => .next s
  | .awaitKey => .next s.keyWaitPoll
  | .run => s.runCycle

/-- The status the `cycle()` that left this state returned (R101): read off the mode it left, by the table of R104. DEDUCED from R101
and R104 (notes/assumptions/8.md). -/
def Mode.status : Mode → Status
  | .run => .continuing
  | .awaitKey => .awaitingKey
  | .halted f => .fatal f

/-- The status a `cycle()` on this state returns (R101). Every `cycle()` answers a next state; the other two outcomes have none. -/
def State.cycleStatus (s : State) : Option Status :=
  match s.cycle with
  | .next t => some t.mode.status
  | .fault _ => none
  | .refused _ => none

/-- The numeric code of a status (R230, D23). -/
def Status.code : Status → Nat
  | .continuing => 0
  | .awaitingKey => 1
  | .fatal .outOfBounds => 2
  | .fatal (.unknownOpcode _ _) => 3
  | .fatal .stackOverflow => 4
  | .fatal .stackUnderflow => 5
  | .fatal (.keyIndexOutOfRange _ _) => 6

/-- The state on which the next `cycle()` fetches and runs the word `w`, of which the low `nbits` are given (see `State.withFetchWord`
in Machine/Step.lean). The fetch needs mode Run and a `pc` up to 0xFFE; where the state has them they stay. -/
def State.placeWord (s : State) (nbits w : Nat) : State :=
  let word : Word := BitVec.ofNat 16 (w % 2 ^ nbits)
  let pc := if s.pc > lastFetch then 0x200#16 else s.pc
  let t := (s.setMode .run).setPc pc
  (t.memWrite pc.toNat (highByte word)).memWrite (pc.toNat + 1) (lowByte word)

end Sys2Proof.Machine
end

