-- ==== Sys2Proof/Machine/Transactions.lean ====
section
/-! DEFINITION. CORE's whole interface: the eight host transactions (spec/10_state.md R42), each one atomic step on the state. An
interleaving of the host's calls is a list of transactions. -/

namespace Sys2Proof.Machine

/-- A host transaction (R42). -/
inductive Transaction where
  | cycle
  | tickTimers
  /-- `k` in 0..15: a call with another index is no move the host can make (R247, D22; notes/assumptions/21.md). -/
  | setKey (k : Key) (pressed : Bool)
  | framebuffer
  | soundActive
  | loadFont
  | loadProgram (bytes : List Byte)
  | reset
  deriving DecidableEq, Repr

/-- One timer's tick: decremented when above 0, floored at 0 (R245). -/
def tick (t : Byte) : Byte := if t.toNat > 0 then t - 1 else t

/-- `tick_timers()` (R245), in every mode (D29; notes/assumptions/23.md). -/
def State.tickTimers (s : State) : State := (s.setDt (tick s.dt)).setSt (tick s.st)

/-- `set_key(k, pressed)` (R247), in every mode. -/
def State.pressKey (s : State) (k : Key) (pressed : Bool) : State := s.setKeys (s.keys.set k.val pressed)

/-- `framebuffer()`: the view it returns (R248). -/
def State.framebufferView (s : State) : FrameBuffer := s.fb

/-- `sound_active()`: `ST > 0` (R249). -/
def State.soundActive (s : State) : Bool := decide (s.st.toNat > 0)

/-- `load_font()`: the 80 bytes of `FONT` at 0x000, nothing else (R262, D17; notes/assumptions/17.md). -/
def State.loadFont (s : State) : State := s.writeBytes 0 s.params.font.toList

/-- The most bytes `load_program` takes: those from 0x200 to 0xFFF (R263). -/
def maxProgram : Nat := 3584

/-- `load_program(bytes)`: the bytes from 0x200 on (R263); more than 3584 is no move the host can make (D21; notes/assumptions/20.md). -/
def State.loadProgram (s : State) (bytes : List Byte) : Answer :=
  if bytes.length ≤ maxProgram then .next (s.writeBytes 0x200 bytes) else .refused .programTooLong

/-- The effect of a transaction on the state (R42). -/
def State.transact (s : State) : Transaction → Answer
  | .cycle => s.cycle
  | .tickTimers => .next s.tickTimers
  | .setKey k p => .next (s.pressKey k p)
  | .framebuffer => .next s
  | .soundActive => .next s
  | .loadFont => .next s.loadFont
  | .loadProgram bytes => s.loadProgram bytes
  | .reset => .next (reinit s)

/-- What a transaction returns to the host (R42). -/
inductive Response where
  | nothing
  | status (s : Status)
  | view (fb : FrameBuffer)
  | level (on : Bool)
  deriving DecidableEq, Repr

/-- The response to a transaction issued on this state (R42, R100, R248, R249). -/
def State.respond (s : State) : Transaction → Response
  | .cycle =>
    match s.cycleStatus with
    | some st => .status st
    | none => .nothing
  | .framebuffer => .view s.framebufferView
  | .soundActive => .level s.soundActive
  | .tickTimers | .setKey _ _ | .loadFont | .loadProgram _ | .reset => .nothing

/-- A run under the host's interleaving (R42, D20): the transactions one after another, stopping where one does not answer a next
state. -/
def State.runAll (s : State) : List Transaction → Answer
  | [] => .next s
  | t :: rest =>
    match s.transact t with
    | .next s' => s'.runAll rest
    | .fault f => .fault f
    | .refused r => .refused r

end Sys2Proof.Machine
end

