-- ==== Sys2Proof/Machine/Step.lean ====
section
/-! DEFINITION. One step of the machine is one `cycle()` (spec/30_encoding.md R100, R103), and the placing of a word where it fetches. -/

namespace Sys2Proof.Machine

/-- One `cycle()` (R100). -/
def step (s : State) : Host.Outcome State Fault Refusal := s.cycle

/-- The state with the instruction of a table word stored where `step` fetches next, its first byte at the lower address (R56), so that
the very next step runs it: the bytes at `pc` and `pc + 1`; and, only where the state would not fetch there, `mode` set to Run and
`pc` to the entry point 0x200 (notes/assumptions/25.md). -/
def State.withFetchWord (s : State) (nbits w : Nat) : State := s.placeWord nbits w

end Sys2Proof.Machine
end

