-- ==== Sys2Proof/Safety.lean ====
section
/-! DEFINITION. The words in which claims about CORE are stated: what holds of every state a run reaches, what a halted state looks
like, the parked state, and what an instruction leaves unchanged. -/

namespace Sys2Proof.Machine

/-- What is true of the state that holds a fatal status (spec/60_exceptions.md R230 to R236): the condition that raised it still stands,
because a halt writes nothing (R234) and a halted core changes nothing (R235). -/
def State.explains (s : State) : FatalStatus → Prop
  | .outOfBounds => s.pc > lastFetch
  | .unknownOpcode raw pc => pc = s.pc ∧ pc ≤ lastFetch ∧ decodeWord raw = .error (.unknownOpcode raw)
  | .stackOverflow => s.sp.val = 16
  | .stackUnderflow => s.sp.val = 0
  | .keyIndexOutOfRange b pc => pc = s.pc ∧ b.toNat > 15 ∧ ∃ x, s.reg x = b

/-- The part of the invariant that depends on the state of the handler state machine: a waiting core's `pc` still addresses its Fx0A
(R215), a halted one's state explains its status. -/
def State.modeFits (s : State) : Prop :=
  match s.mode with
  | .run => True
  | .awaitKey => s.pc ≤ lastFetch
  | .halted f => s.explains f

/-- The invariant of every run. -/
structure State.Inv (s : State) : Prop where
  /-- Memory keeps its canonical form. -/
  memory : s.mem.wf
  /-- The largest value `pc` can reach is 0x10FE (spec/10_state.md R24). -/
  pcBound : s.pc.toNat ≤ 0x10FE
  /-- The largest live stack entry is 0x1000 (R24). -/
  returns : ∀ j : Fin 16, j.val < s.sp.val → (s.stack[j.val]).toNat ≤ 0x1000
  /-- See `State.modeFits`. -/
  mode : s.modeFits

/-- A run is over exactly when the core has halted (spec/70_reset_and_hazards.md R276). -/
def State.isHalted (s : State) : Prop := ∃ f, s.mode = .halted f

/-- The parked state (R276): Run, with the word at `pc` a jump to itself. -/
def State.parked (s : State) : Prop :=
  s.mode = .run ∧ s.pc ≤ lastFetch ∧ s.fetch = .ok (0x1000#16 ||| s.pc)

/-- What an instruction may change, apart from `pc`: everything not named stays (see `Frame`). -/
structure Changes where
  /-- The general registers written. -/
  regs : List Reg := []
  /-- Whether `I` is written. -/
  index : Bool := false
  /-- The reduced addresses of the bytes stored. -/
  stored : List Nat := []
  /-- Whether the call stack or its depth is written. -/
  stack : Bool := false
  dt : Bool := false
  st : Bool := false
  screen : Bool := false
  /-- Whether the key-wait latch is written. -/
  keyWait : Bool := false
  mode : Bool := false
  /-- Whether a free draw is used (the model's own counter). -/
  draws : Bool := false
  deriving DecidableEq, Repr

/-- The frame of an instruction that takes `s` to `t`: everything but `pc` and what `c` names is as before. The input latch and the
parameters are in no frame's changes: CORE never writes them (R37, R7). -/
structure Frame (s t : State) (c : Changes) : Prop where
  regs : ∀ r, r ∉ c.regs → t.reg r = s.reg r
  index : c.index = false → t.i = s.i
  /-- Through the read of one byte: every integer address whose reduction is no stored address. -/
  memory : ∀ a, dataAddr a ∉ c.stored → t.memRead a = s.memRead a
  /-- Live and dead entries, and the depth. -/
  stack : c.stack = false → t.stack = s.stack ∧ t.sp = s.sp
  dt : c.dt = false → t.dt = s.dt
  st : c.st = false → t.st = s.st
  screen : c.screen = false → ∀ x y, t.fb.pixel x y = s.fb.pixel x y
  keyWait : c.keyWait = false → t.kwReg = s.kwReg ∧ t.kwPrev = s.kwPrev
  mode : c.mode = false → t.mode = s.mode
  draws : c.draws = false → t.draws = s.draws
  keys : t.keys = s.keys
  params : t.params = s.params

/-- The instruction completes: `exec` answers a next state, in which `post` holds and nothing but `pc` and what `c` names has changed. -/
def Completes (i : Instr) (s : State) (c : Changes) (post : State → Prop) : Prop :=
  ∃ t, exec i s = .next t ∧ Frame s t c ∧ post t

/-- The instruction halts the core (spec/60_exceptions.md R234): `exec` answers the state with nothing but `mode` changed. -/
def Halts (i : Instr) (s : State) (f : FatalStatus) : Prop := exec i s = .next { s with mode := .halted f }

/-- The "Encoding" line of an instruction's rule: the bits that `mask` fixes have the values of `value` in the instruction's word. -/
def Encodes (i : Instr) (value mask : Word) : Prop := encode i &&& mask = value

end Sys2Proof.Machine
end

