-- ==== Sys2Proof/Certificates/Slice0/Obligations.lean ====
section
/-! DEFINITION. The statements for the provers, family by family. `Completes`, `Halts`, `Frame`, `Changes`, `Encodes` and `State.Inv`
are defined in Sys2Proof/Safety.lean. A mark [decision D<n>] in a rule is the spec's own choice where its source is silent; each
docstring names the decisions its statement rests on. -/

open Sys2Proof Sys2Proof.Machine

/-! ## Words in which several statements are written -/

/-- The operands of an instruction are the fields of the word `w` (R81), by integer arithmetic on the word. -/
def OperandsAre (w : Nat) : Instr → Prop
  | .cls => w = 0x00E0
  | .ret => w = 0x00EE
  | .jp nnn | .call nnn | .ldI nnn | .jpV0 nnn => nnn.toNat = w % 4096
  | .seByte x kk | .sneByte x kk | .ldByte x kk | .addByte x kk | .rnd x kk =>
    x.val = w / 256 % 16 ∧ kk.toNat = w % 256
  | .seReg x y | .ldReg x y | .orReg x y | .andReg x y | .xorReg x y | .addReg x y | .subReg x y | .shr x y
  | .subnReg x y | .shl x y | .sneReg x y => x.val = w / 256 % 16 ∧ y.val = w / 16 % 16
  | .drw x y n => x.val = w / 256 % 16 ∧ y.val = w / 16 % 16 ∧ n = w % 16
  | .skp x | .sknp x | .ldVxDt x | .ldVxK x | .ldDtVx x | .ldStVx x | .addI x | .ldF x | .ldB x | .storeRegs x
  | .loadRegs x => x.val = w / 256 % 16

/-- The illegal words, by the table of R89, by integer arithmetic on the word. -/
def IllegalWord (w : Nat) : Prop :=
  (w / 4096 = 0x0 ∧ w ≠ 0x00E0 ∧ w ≠ 0x00EE) ∨
  (w / 4096 = 0x5 ∧ w % 16 ≠ 0) ∨
  (w / 4096 = 0x8 ∧ w % 16 ∈ [0x8, 0x9, 0xA, 0xB, 0xC, 0xD, 0xF]) ∨
  (w / 4096 = 0x9 ∧ w % 16 ≠ 0) ∨
  (w / 4096 = 0xE ∧ w % 256 ∉ [0x9E, 0xA1]) ∨
  (w / 4096 = 0xF ∧ w % 256 ∉ [0x07, 0x0A, 0x15, 0x18, 0x1E, 0x29, 0x33, 0x55, 0x65])

/-- The instruction runs on every state, moves `pc` to `target` and changes nothing else. -/
def OnlyMovesPc (i : Instr) (target : State → Word) : Prop :=
  ∀ s, Completes i s {} (fun t => t.pc = target s)

/-- The instruction runs on every state, writes `result` to register `x`, moves `pc` past itself and changes nothing else. -/
def OnlyWritesRegister (i : Instr) (x : Reg) (result : State → Nat) : Prop :=
  ∀ s, Completes i s { regs := [x] } (fun t => (t.reg x).toNat = result s ∧ t.pc = s.pc + 2)

/-- The instruction runs on every state and writes a flag to VF and a result to register `x`; where x is VF, `VF_ORDER` says which of
the two remains (R34). Nothing else changes but `pc`. -/
def WritesFlagAndResult (i : Instr) (x : Reg) (flag result : State → Nat) : Prop :=
  ∀ s, Completes i s { regs := [x, vf] } (fun t =>
    t.pc = s.pc + 2 ∧
    (x ≠ vf → (t.reg x).toNat = result s ∧ (t.reg vf).toNat = flag s) ∧
    (x = vf → s.params.vfOrder = .resultLast → (t.reg vf).toNat = result s) ∧
    (x = vf → s.params.vfOrder = .flagLast → (t.reg vf).toNat = flag s))

/-- Whether an instruction may write VF: the six flag writers of R26, and those that name VF as destination or in the range V0 to Vx. -/
def MayWriteVf : Instr → Prop
  | .addReg _ _ | .subReg _ _ | .shr _ _ | .subnReg _ _ | .shl _ _ | .drw _ _ _ => True
  | .ldByte x _ | .addByte x _ | .ldReg x _ | .orReg x _ | .andReg x _ | .xorReg x _ | .rnd x _ | .ldVxDt x
  | .ldVxK x | .loadRegs x => x = vf
  | .cls | .ret | .jp _ | .call _ | .seByte _ _ | .sneByte _ _ | .seReg _ _ | .sneReg _ _ | .ldI _ | .jpV0 _ | .skp _
  | .sknp _ | .ldDtVx _ | .ldStVx _ | .addI _ | .ldF _ | .ldB _ | .storeRegs _ => False

/-- The sprite bit that Dxyn puts on cell (c, r): 0 outside the sprite's 8 columns and n rows, counted from (V[x] mod 64, V[y] mod 32)
with wrap; bit `7 - dc` of the row byte `MemRead(I + dr, 1)` inside (R111, R112). -/
def spriteCell (s : State) (x y : Reg) (n : Nat) (c : Fin 64) (r : Fin 32) : Bool :=
  let dc := (c.val + 64 - (s.reg x).toNat % 64) % 64
  let dr := (r.val + 32 - (s.reg y).toNat % 32) % 32
  decide (dc < 8) && decide (dr < n) && (s.memRead (s.i.toNat + dr)).getLsbD (7 - dc)

/-- Key k qualifies at a poll (R215): held now and, under `Edge`, not held at the previous poll. -/
def Qualifies (s : State) (k : Key) : Prop :=
  s.keys[k.val] = true ∧ (s.params.keyTrigger = .edge → s.kwPrev[k.val] = false)

/-- `Pick(N, kd)` of R215 is k: a member of N; `kd` itself where `kd` is a member; else the least member. -/
def IsPick (N : Key → Prop) (kd k : Key) : Prop :=
  N k ∧ (N kd → k = kd) ∧ (¬ N kd → ∀ j, N j → k ≤ j)

/-! ## Encoding (spec/30_encoding.md) -/

/-- R80, R82, R85: the decoder gives every well-formed instruction back from its word, and from its two bytes, with every operand at every
value the encoding admits, the y that 8xy6 and 8xyE ignore included (kept in the syntax: the model's choice,
notes/assumptions/26.md); the bytes after them are left. -/
def Obligations.DecodeOfEncodeIsTheInstruction : Prop :=
  ∀ (i : Instr) (rest : List Byte), i.wellFormed = true →
    decodeWord (encode i) = .ok i ∧ decode (encodeBytes i ++ rest) = .ok (i, rest)

/-- R81, R88, R90: a word the decoder accepts is the word of the instruction it gives, which is well-formed: no bit of a legal word is lost.
R88 returns the fields of R81 with the row; that the y which 8xy6 and 8xyE ignore (R90) stays in the instruction is the model's choice
(notes/assumptions/26.md). -/
def Obligations.EncodeOfDecodeIsTheWord : Prop :=
  ∀ (w : Word) (i : Instr), decodeWord w = .ok i → i.wellFormed = true ∧ encode i = w

/-- R84, R88: `decode(w)` is total: either it returns the unique row of R85 with `(w & mask) = match`, together with the fields of R81, or
no row matches and it returns none. -/
def Obligations.DecodeReturnsTheUniqueRowAndItsFields : Prop :=
  ∀ w : Word,
    (∃ i, decodeWord w = .ok i ∧ i.row ∈ opcodeTable ∧ w &&& i.row.mask = i.row.value ∧
      (∀ r ∈ opcodeTable, w &&& r.mask = r.value → r = i.row) ∧ OperandsAre w.toNat i) ∨
    (decodeWord w = .error (.unknownOpcode w) ∧ ∀ r ∈ opcodeTable, w &&& r.mask ≠ r.value)

/-- R86, R89: the words the decoder rejects are exactly those of R89's table [decision D26 for 5xyN and 9xyN]. -/
def Obligations.RejectedWordsAreTheIllegalWords : Prop :=
  ∀ w : Word, decodeWord w = .error (.unknownOpcode w) ↔ IllegalWord w.toNat

/-- The words of spec/95_test_vectors.md section 2.1 decode to the instructions they stand for. -/
def Obligations.SampleWordsDecode : Prop :=
  decodeWord 0x00E0 = .ok .cls ∧ decodeWord 0x1ABC = .ok (.jp 0xABC) ∧ decodeWord 0x3F01 = .ok (.seByte 15 0x01) ∧
  decodeWord 0x8AB4 = .ok (.addReg 10 11) ∧ decodeWord 0x8A0E = .ok (.shl 10 0) ∧
  decodeWord 0xB123 = .ok (.jpV0 0x123) ∧ decodeWord 0xD125 = .ok (.drw 1 2 5) ∧ decodeWord 0xE29E = .ok (.skp 2) ∧
  decodeWord 0xF265 = .ok (.loadRegs 2) ∧ decodeWord 0x5AB1 = .error (.unknownOpcode 0x5AB1) ∧
  decodeWord 0xF275 = .error (.unknownOpcode 0xF275)

/-! ## The cycle, halting and the handler state machine (R100 to R104, R230 to R240) -/

/-- R55, R100, R102: in Run, with `pc` in bounds, where the two bytes at `pc` and `pc + 1`, the first one high, decode to `i`, a step is
`exec i` on the state as it stands, and `i` is well-formed [decisions D1, D2: byte order and bound]. -/
def Obligations.StepRunsTheDecodedInstruction : Prop :=
  ∀ (s : State) (i : Instr), s.mode = .run → s.pc.toNat ≤ 0xFFE →
    decodeWord (BitVec.ofNat 16 ((s.memRead s.pc.toNat).toNat * 256 + (s.memRead (s.pc.toNat + 1)).toNat)) = .ok i →
    step s = exec i s ∧ i.wellFormed = true

/-- A word placed where the machine fetches runs as the very next step, on every state whose memory is in canonical form
(the model's `withFetchWord`, notes/assumptions/25.md). -/
def Obligations.PlacedWordRunsNext : Prop :=
  ∀ (s : State) (w : Nat) (i : Instr), s.mem.wf → w < 65536 → decodeTableWord 16 w = some i →
    step (s.withFetchWord 16 w) = exec i (s.withFetchWord 16 w)

/-- R55, R231: a running core's step halts with `OutOfBounds` exactly when `pc` is above 0xFFE; only the mode changes
[decisions D2, D15]. -/
def Obligations.FetchOutOfBoundsHaltsExactlyAboveFFE : Prop :=
  ∀ s : State, s.mode = .run →
    (step s = .next { s with mode := .halted .outOfBounds } ↔ s.pc.toNat > 0xFFE)

/-- R232, R234: `UnknownOpcode(raw, pc)` is raised by `cycle()` exactly when the fetched word decodes to none; `raw` is the fetched word and
`pc` the address it was fetched from; the raise changes only the mode [decision D15; as a next state: the model's form,
notes/assumptions/7.md]. -/
def Obligations.UnknownOpcodeIsRaisedExactlyOnUndecodableWords : Prop :=
  ∀ (s : State) (w raw a : Word), s.mode = .run → s.fetch = .ok w →
    (step s = .next { s with mode := .halted (.unknownOpcode raw a) } ↔
      (∃ r, decodeWord w = .error r) ∧ raw = w ∧ a = s.pc)

/-- R233, R234: 2nnn at SP = 16 raises StackOverflow and 00EE at SP = 0 raises StackUnderflow, each changing only the mode [decision D15;
as a next state: the model's form, notes/assumptions/7.md]; only 2nnn pushes and only 00EE pops. -/
def Obligations.StackMisuseHaltsAndOnlyCallAndRetMoveTheStack : Prop :=
  (∀ (s : State) (nnn : Addr12), s.sp.val = 16 → Halts (.call nnn) s .stackOverflow) ∧
  (∀ s : State, s.sp.val = 0 → Halts .ret s .stackUnderflow) ∧
  (∀ (i : Instr) (s t : State), exec i s = .next t → t.stack ≠ s.stack ∨ t.sp ≠ s.sp →
    ((∃ nnn, i = .call nnn) ∧ t.sp.val = s.sp.val + 1) ∨ (i = .ret ∧ t.sp.val + 1 = s.sp.val ∧ t.stack = s.stack))

/-- R12, R234: when a running core's step halts, it wrote nothing but the mode (so `pc` keeps the address of the faulting instruction), and
the condition of the status holds of the state it halted in [decision D15]. -/
def Obligations.HaltEntryIsPrecise : Prop :=
  ∀ (s t : State) (f : FatalStatus), s.mode = .run → step s = .next t → t.mode = .halted f →
    t = { s with mode := .halted f } ∧ s.explains f

/-- R235, R240: a halted core's `cycle()` returns the held status and changes nothing; every other host transaction but `reset()` leaves
`mode` and `pc` as they are; `reset()` leaves the core running [decisions D15, D16, D29]. -/
def Obligations.HaltedCoreLeavesOnlyByReset : Prop :=
  ∀ (s : State) (f : FatalStatus), s.mode = .halted f →
    step s = .next s ∧ s.cycleStatus = some (.fatal f) ∧
    (∀ (tr : Transaction) (t : State), tr ≠ .reset → s.transact tr = .next t → t.mode = .halted f ∧ t.pc = s.pc) ∧
    (∃ t, s.transact .reset = .next t ∧ t.mode = .run)

/-- R101, R104: the transitions of the handler state machine and the status each returns [decisions D15, D33]. -/
def Obligations.ModeTransitionsAndStatuses : Prop :=
  ∀ s t : State, step s = .next t →
    (s.mode = .run →
      (t.mode = .run ∧ s.cycleStatus = some .continuing) ∨
      (t.mode = .awaitKey ∧ s.cycleStatus = some .awaitingKey ∧
        ∃ w x, s.fetch = .ok w ∧ decodeWord w = .ok (.ldVxK x) ∧ t.kwReg = x) ∨
      (∃ f, t.mode = .halted f ∧ s.cycleStatus = some (.fatal f))) ∧
    (s.mode = .awaitKey →
      ((∀ k, ¬ Qualifies s k) ∧ t.mode = .awaitKey ∧ s.cycleStatus = some .awaitingKey) ∨
      ((∃ k, Qualifies s k) ∧ t.mode = .run ∧ s.cycleStatus = some .continuing)) ∧
    (∀ f, s.mode = .halted f → t.mode = .halted f ∧ s.cycleStatus = some (.fatal f))

/-- Every step, from every state, answers a next state: no step of this model ends in the host's fault or refusal. That the fatal
statuses are next states is the model's form (notes/assumptions/7.md); that they are entered so is R234. -/
def Obligations.EveryStepAnswersANextState : Prop :=
  ∀ s : State, ∃ t, step s = .next t

/-! ## Invariants and whole-machine rules -/

/-- `State.Inv` holds after reset [values by decision D16]. -/
def Obligations.ResetStateMeetsInvariant : Prop := State.reset.Inv

/-- From every state that meets it, a step keeps `State.Inv`: memory in canonical form; `pc` at most 0x10FE and live return addresses at
most 0x1000 (the bounds R24 derives); a waiting core's `pc` fetchable; a halted core's state explaining its status (R234, R235) [decision D15]. -/
def Obligations.StepKeepsInvariant : Prop :=
  ∀ s t : State, s.Inv → step s = .next t → t.Inv

/-- Under every interleaving of host transactions (R42, D20), `State.Inv` is kept [decisions D15, D16]. -/
def Obligations.EveryRunOfTransactionsKeepsInvariant : Prop :=
  ∀ (run : List Transaction) (s t : State), s.Inv → s.runAll run = .next t → t.Inv

/-- R37: the input latch is read-only to CORE, in every mode; and no step changes the machine's parameters (the model's own field,
notes/assumptions/1.md). -/
def Obligations.StepNeverWritesTheInputLatch : Prop :=
  ∀ s t : State, step s = .next t → t.keys = s.keys ∧ t.params = s.params

/-- R38: the framebuffer is mutated only by the clear-screen and sprite-draw operations. -/
def Obligations.ScreenChangesOnlyByClearAndDraw : Prop :=
  ∀ s t : State, step s = .next t → (∃ c r, t.fb.pixel c r ≠ s.fb.pixel c r) →
    s.mode = .run ∧ ∃ w i, s.fetch = .ok w ∧ decodeWord w = .ok i ∧ (i = .cls ∨ ∃ x y n, i = .drw x y n)

/-- R30: neither timer is ever incremented by CORE. A step changes a timer only in Run and by the load Fx15 or Fx18, which loads V[x]; every
host transaction but `cycle()` leaves both at most what they were (`reset()` sets them to 0, R260 [decision D16;
notes/assumptions/5.md]), a tick one lower, floored at 0, in every mode (R245 [decision D29; notes/assumptions/23.md]). -/
def Obligations.TimersAreOnlyLoadedOrDecremented : Prop :=
  (∀ s t : State, step s = .next t →
    (t.dt = s.dt ∨ s.mode = .run ∧ ∃ w x, s.fetch = .ok w ∧ decodeWord w = .ok (.ldDtVx x) ∧ t.dt = s.reg x) ∧
    (t.st = s.st ∨ s.mode = .run ∧ ∃ w x, s.fetch = .ok w ∧ decodeWord w = .ok (.ldStVx x) ∧ t.st = s.reg x)) ∧
  (∀ (s t : State) (tr : Transaction), tr ≠ .cycle → s.transact tr = .next t →
    t.dt.toNat ≤ s.dt.toNat ∧ t.st.toNat ≤ s.st.toNat) ∧
  (∀ s t : State, s.transact .tickTimers = .next t →
    t.dt.toNat = s.dt.toNat - 1 ∧ t.st.toNat = s.st.toNat - 1)

/-- R26: an instruction that is none of the six flag writers and does not name VF as its destination, or in the range V0 to Vx, leaves
VF unchanged [decision D7]. -/
def Obligations.OtherInstructionsLeaveVfUnchanged : Prop :=
  ∀ (i : Instr) (s t : State), ¬ MayWriteVf i → exec i s = .next t → t.reg vf = s.reg vf

/-- R50: among the instructions only Fx33 and Fx55 write memory; the other bytes read as before, in every mode. -/
def Obligations.OnlyStoresWriteMemory : Prop :=
  ∀ (s t : State) (a : Nat), step s = .next t → t.memRead a ≠ s.memRead a →
    ∃ w x, s.fetch = .ok w ∧ (decodeWord w = .ok (.ldB x) ∨ decodeWord w = .ok (.storeRegs x))

/-- R29: ST is read by no instruction. Two states that differ in ST alone step to states that differ in ST alone. -/
def Obligations.NoStepReadsTheSoundTimer : Prop :=
  ∀ (s t : State) (b : Byte), step s = .next t →
    ∃ t', step { s with st := b } = .next t' ∧ { t' with st := t.st } = t

/-- R36, R40: dead stack entries are never seen. Two states that differ only in entries at SP and above step to states that differ only
in such entries. -/
def Obligations.DeadStackEntriesAreNeverSeen : Prop :=
  ∀ (s t : State) (k : Vector Word 16), (∀ j : Fin 16, j.val < s.sp.val → k[j.val] = s.stack[j.val]) →
    step s = .next t →
    ∃ t', step { s with stack := k } = .next t' ∧ { t' with stack := t.stack } = t ∧
      ∀ j : Fin 16, j.val < t.sp.val → t'.stack[j.val] = t.stack[j.val]

/-- R276: a parked state steps to itself, and the cycle returns `Continuing`. The word at `pc` is the fetched one [decisions D1, D2]. -/
def Obligations.ParkedStateStepsToItself : Prop :=
  ∀ s : State, s.parked → step s = .next s ∧ s.cycleStatus = some .continuing

/-- R67, R271: a store onto the word that executes next takes effect on it: after Fx55 (x at least 1) at I = pc + 2, in any reduction of
I, the next fetch gets the word whose high byte is V0 and whose low byte is V1 [decisions D1, D3]. -/
def Obligations.StoreOntoTheNextWordIsFetched : Prop :=
  ∀ (s t : State) (x : Reg), s.mem.wf → x.val ≥ 1 → s.pc.toNat + 2 ≤ 0xFFE → s.i.toNat % 4096 = s.pc.toNat + 2 →
    exec (.storeRegs x) s = .next t →
    t.fetch = .ok (BitVec.ofNat 16 ((s.reg 0).toNat * 256 + (s.reg 1).toNat))

/-! ## Display (spec/40_display.md) -/

/-- R110: 00E0 clears all 2048 cells and moves `pc` on; nothing else changes [decision D7]. -/
def Obligations.ClsClearsEveryCell : Prop :=
  Encodes .cls 0x00E0 0xFFFF ∧
  ∀ s, Completes .cls s { screen := true } (fun t => (∀ c r, t.fb.pixel c r = false) ∧ t.pc = s.pc + 2)

/-- R111, R112: Dxyn, cell by cell: each cell of the screen is the old cell XOR the sprite bit that falls on it, with wrap at both edges;
VF is 1 if at least one cell went from set to clear and 0 otherwise; the coordinates are those before VF is written; nothing else
changes but `pc` [decisions D3, D9, D10]. -/
def Obligations.DrawXorsTheSpriteAndReportsCollision : Prop :=
  ∀ (x y : Reg) (n : Nat), n ≤ 15 → Encodes (.drw x y n) 0xD000 0xF000 ∧
    ∀ s, Completes (.drw x y n) s { regs := [vf], screen := true } (fun t =>
      t.pc = s.pc + 2 ∧
      (∀ c r, t.fb.pixel c r = xor (s.fb.pixel c r) (spriteCell s x y n c r)) ∧
      ((∃ c r, s.fb.pixel c r = true ∧ t.fb.pixel c r = false) → (t.reg vf).toNat = 1) ∧
      ((¬ ∃ c r, s.fb.pixel c r = true ∧ t.fb.pixel c r = false) → (t.reg vf).toNat = 0))

/-- R113 (a), (c): two equal draws restore the framebuffer; a draw onto a clear screen sets VF = 0; and what R111 gives in place of
R113 (b): the second draw sets VF = 1 exactly when some set sprite bit falls on a cell that was clear before the first
(notes/assumptions/27.md). The conditions are those of 90_conflicts.md C7. -/
def Obligations.DrawingTwiceRestoresTheScreen : Prop :=
  ∀ (x y : Reg) (n : Nat) (s t u : State), n ≤ 15 → x ≠ vf → y ≠ vf →
    exec (.drw x y n) s = .next t → exec (.drw x y n) t = .next u →
    (∀ c r, u.fb.pixel c r = s.fb.pixel c r) ∧
    ((∀ c r, s.fb.pixel c r = false) → (t.reg vf).toNat = 0) ∧
    ((u.reg vf).toNat = 1 ↔ ∃ c r, spriteCell s x y n c r = true ∧ s.fb.pixel c r = false)

/-- R113 (b) as the spec derives it: the second of two equal draws sets VF = 1 exactly when the sprite has at least one set bit in its n
rows. EXPECTED TO FAIL of the machine R111 describes: where the screen is already set under the sprite, the first draw clears and
the second sets (notes/assumptions/27.md). -/
def Obligations.SecondDrawCollidesWheneverTheSpriteHasABit : Prop :=
  ∀ (x y : Reg) (n : Nat) (s t u : State), n ≤ 15 → x ≠ vf → y ≠ vf →
    exec (.drw x y n) s = .next t → exec (.drw x y n) t = .next u →
    ((u.reg vf).toNat = 1 ↔ ∃ r, r < n ∧ s.memRead (s.i.toNat + r) ≠ 0)

/-! ## Control flow (spec/41_control_flow.md) -/

/-- R133, R135, R136, R137, R138: 1nnn jumps to nnn; 3xkk, 4xkk, 5xy0 and 9xy0 add 4 to `pc` when their comparison holds and 2 otherwise;
no register, flag or anything else changes, and none of them raises an exception. -/
def Obligations.JumpsAndSkipsOnlyMovePc : Prop :=
  (∀ nnn, Encodes (.jp nnn) 0x1000 0xF000 ∧ OnlyMovesPc (.jp nnn) (fun _ => BitVec.ofNat 16 nnn.toNat)) ∧
  (∀ x kk, Encodes (.seByte x kk) 0x3000 0xF000 ∧
    OnlyMovesPc (.seByte x kk) (fun s => if (s.reg x).toNat = kk.toNat then s.pc + 4 else s.pc + 2)) ∧
  (∀ x kk, Encodes (.sneByte x kk) 0x4000 0xF000 ∧
    OnlyMovesPc (.sneByte x kk) (fun s => if (s.reg x).toNat = kk.toNat then s.pc + 2 else s.pc + 4)) ∧
  (∀ x y, Encodes (.seReg x y) 0x5000 0xF00F ∧
    OnlyMovesPc (.seReg x y) (fun s => if (s.reg x).toNat = (s.reg y).toNat then s.pc + 4 else s.pc + 2)) ∧
  (∀ x y, Encodes (.sneReg x y) 0x9000 0xF00F ∧
    OnlyMovesPc (.sneReg x y) (fun s => if (s.reg x).toNat = (s.reg y).toNat then s.pc + 2 else s.pc + 4))

/-- R139: Bnnn sets `pc` to nnn plus V0, at most 0x10FE, not reduced to 12 bits; nothing else changes [decision D27]. -/
def Obligations.JpV0AddsV0ToTheAddress : Prop :=
  ∀ nnn, Encodes (.jpV0 nnn) 0xB000 0xF000 ∧
    ∀ s, Completes (.jpV0 nnn) s {} (fun t => t.pc.toNat = nnn.toNat + (s.reg 0).toNat ∧ t.pc.toNat ≤ 0x10FE)

/-- R134: 2nnn below SP = 16 pushes `pc + 2` and jumps to nnn; the other entries and everything else are as before [decision D5]. At
SP = 16 it halts, see `StackMisuseHaltsAndOnlyCallAndRetMoveTheStack`. -/
def Obligations.CallPushesTheReturnAddress : Prop :=
  ∀ nnn, Encodes (.call nnn) 0x2000 0xF000 ∧
    ∀ s : State, s.sp.val < 16 → Completes (.call nnn) s { stack := true } (fun t =>
      t.pc.toNat = nnn.toNat ∧ t.sp.val = s.sp.val + 1 ∧
      ∀ j : Fin 16, t.stack[j.val] = if j.val = s.sp.val then s.pc + 2 else s.stack[j.val])

/-- R132: 00EE above SP = 0 sets `pc` to the top entry with no adjustment and lowers SP by one; the entries and everything else are as
before [decision D5]. At SP = 0 it halts, see `StackMisuseHaltsAndOnlyCallAndRetMoveTheStack`. -/
def Obligations.RetPopsTheReturnAddress : Prop :=
  Encodes .ret 0x00EE 0xFFFF ∧
  ∀ (s : State) (j : Fin 16), s.sp.val = j.val + 1 → Completes .ret s { stack := true } (fun t =>
    t.pc = s.stack[j.val] ∧ t.sp.val = j.val ∧ t.stack = s.stack)

/-- R131, R132, R134: a call followed by a return resumes at the word after the call, with the depth and everything but a dead stack entry
as before the call [decision D5]. -/
def Obligations.ReturnResumesAfterTheCall : Prop :=
  ∀ (nnn : Addr12) (s : State), s.sp.val < 16 →
    ∃ t u, exec (.call nnn) s = .next t ∧ exec .ret t = .next u ∧ u.pc = s.pc + 2 ∧ u.sp = s.sp ∧
      Frame s u { stack := true } ∧ ∀ j : Fin 16, j.val ≠ s.sp.val → u.stack[j.val] = s.stack[j.val]

/-- R130, R131: `push` fails exactly at depth 16 and `pop` exactly at depth 0, a failing one changes nothing (it gives no state); a push that
succeeds writes the entry at SP and raises SP by one; `push(a)` followed by `pop()` returns `a` and restores SP. -/
def Obligations.PushAndPopAreALifo : Prop :=
  (∀ (s : State) (a : Word), s.push a = .error .stackOverflow ↔ s.sp.val = 16) ∧
  (∀ s : State, s.pop = .error .stackUnderflow ↔ s.sp.val = 0) ∧
  (∀ (s : State) (a : Word), s.sp.val < 16 → ∃ t u, s.push a = .ok t ∧ t.sp.val = s.sp.val + 1 ∧
    (∀ j : Fin 16, t.stack[j.val] = if j.val = s.sp.val then a else s.stack[j.val]) ∧
    t.pop = .ok (a, u) ∧ u.sp = s.sp) ∧
  (∀ (s : State) (j : Fin 16), s.sp.val = j.val + 1 →
    ∃ u, s.pop = .ok (s.stack[j.val], u) ∧ u.sp.val = j.val ∧ u.stack = s.stack)

/-! ## Registers (spec/42_register_alu.md) -/

/-- R160, R213: 6xkk loads kk and Fx07 loads DT into Vx, on every state; nothing else changes but `pc` (so VF only when x = 15, and DT is
not changed by the read). -/
def Obligations.LoadsWriteVxOnly : Prop :=
  (∀ x kk, Encodes (.ldByte x kk) 0x6000 0xF000 ∧ OnlyWritesRegister (.ldByte x kk) x (fun _ => kk.toNat)) ∧
  (∀ x, Encodes (.ldVxDt x) 0xF007 0xF0FF ∧ OnlyWritesRegister (.ldVxDt x) x (fun s => s.dt.toNat))

/-- R161 to R165: 7xkk adds mod 256 with no carry, 8xy0 copies, 8xy1 to 8xy3 are OR, AND and XOR bit by bit; nothing else changes but `pc`,
VF least of all unless it is the destination [decision D7]. -/
def Obligations.AddImmediateCopyAndLogicWriteVxOnly : Prop :=
  (∀ x kk, Encodes (.addByte x kk) 0x7000 0xF000 ∧
    OnlyWritesRegister (.addByte x kk) x (fun s => ((s.reg x).toNat + kk.toNat) % 256)) ∧
  (∀ x y, Encodes (.ldReg x y) 0x8000 0xF00F ∧ OnlyWritesRegister (.ldReg x y) x (fun s => (s.reg y).toNat)) ∧
  (∀ x y, Encodes (.orReg x y) 0x8001 0xF00F ∧
    OnlyWritesRegister (.orReg x y) x (fun s => (s.reg x).toNat ||| (s.reg y).toNat)) ∧
  (∀ x y, Encodes (.andReg x y) 0x8002 0xF00F ∧
    OnlyWritesRegister (.andReg x y) x (fun s => (s.reg x).toNat &&& (s.reg y).toNat)) ∧
  (∀ x y, Encodes (.xorReg x y) 0x8003 0xF00F ∧
    OnlyWritesRegister (.xorReg x y) x (fun s => (s.reg x).toNat ^^^ (s.reg y).toNat))

/-- R166 to R170: 8xy4, 8xy5, 8xy6, 8xy7 and 8xyE: the result mod 256 in Vx and exactly the carry, no-borrow or shifted-out bit in VF, from
the operands before any write (R13); where x = 15, the one of the two that `VF_ORDER` selects (R34) [decision D6;
notes/assumptions/16.md]; nothing else changes but `pc`. -/
def Obligations.ArithmeticWritesResultAndFlag : Prop :=
  ∀ x y : Reg,
    (Encodes (.addReg x y) 0x8004 0xF00F ∧ WritesFlagAndResult (.addReg x y) x
      (fun s => if (s.reg x).toNat + (s.reg y).toNat > 255 then 1 else 0)
      (fun s => ((s.reg x).toNat + (s.reg y).toNat) % 256)) ∧
    (Encodes (.subReg x y) 0x8005 0xF00F ∧ WritesFlagAndResult (.subReg x y) x
      (fun s => if (s.reg x).toNat ≥ (s.reg y).toNat then 1 else 0)
      (fun s => ((s.reg x).toNat + 256 - (s.reg y).toNat) % 256)) ∧
    (Encodes (.shr x y) 0x8006 0xF00F ∧ WritesFlagAndResult (.shr x y) x
      (fun s => (s.reg x).toNat % 2) (fun s => (s.reg x).toNat / 2)) ∧
    (Encodes (.subnReg x y) 0x8007 0xF00F ∧ WritesFlagAndResult (.subnReg x y) x
      (fun s => if (s.reg y).toNat ≥ (s.reg x).toNat then 1 else 0)
      (fun s => ((s.reg y).toNat + 256 - (s.reg x).toNat) % 256)) ∧
    (Encodes (.shl x y) 0x800E 0xF00F ∧ WritesFlagAndResult (.shl x y) x
      (fun s => (s.reg x).toNat / 128) (fun s => (s.reg x).toNat * 2 % 256))

/-- R171: Cxkk writes the next free byte AND kk to Vx, whatever that byte is, so only bits set in kk can be set; the draw is used up, and
nothing else changes but `pc` [decision D19; the numbering of draws is the model's, notes/assumptions/2.md]. -/
def Obligations.RndMasksAFreeByte : Prop :=
  ∀ x kk, Encodes (.rnd x kk) 0xC000 0xF000 ∧
    ∀ s, Completes (.rnd x kk) s { regs := [x], draws := true } (fun t =>
      (t.reg x).toNat = (Config.freeByte s.draws).toNat &&& kk.toNat ∧ t.reg x &&& ~~~kk = 0 ∧
      t.draws = s.draws + 1 ∧ t.pc = s.pc + 2)

/-! ## Index register and memory transfers (spec/43_index_memory.md) -/

/-- R190, R192: Annn loads nnn into I; Fx29 loads V[x] * 5, exact; nothing else changes but `pc`. -/
def Obligations.LoadIndexAndGlyphAddress : Prop :=
  (∀ nnn, Encodes (.ldI nnn) 0xA000 0xF000 ∧
    ∀ s, Completes (.ldI nnn) s { index := true } (fun t => t.i.toNat = nnn.toNat ∧ t.pc = s.pc + 2)) ∧
  (∀ x, Encodes (.ldF x) 0xF029 0xF0FF ∧
    ∀ s, Completes (.ldF x) s { index := true } (fun t => t.i.toNat = (s.reg x).toNat * 5 ∧ t.pc = s.pc + 2))

/-- R191: Fx1E adds V[x] to I mod 65536, with no flag; nothing else changes but `pc` [decisions D7, D27]. -/
def Obligations.AddToIndexWrapsAtSixteenBits : Prop :=
  ∀ x, Encodes (.addI x) 0xF01E 0xF0FF ∧
    ∀ s, Completes (.addI x) s { index := true } (fun t =>
      t.i.toNat = (s.i.toNat + (s.reg x).toNat) % 65536 ∧ t.pc = s.pc + 2)

/-- R193, R54: Fx33 writes the hundreds, tens and ones digits of V[x] at I, I + 1 and I + 2, each address reduced mod 4096 and never a fault,
for every I [decision D3; notes/assumptions/11.md]; every other byte and everything else but `pc` is as before. -/
def Obligations.BcdStoresThreeDigits : Prop :=
  ∀ x, Encodes (.ldB x) 0xF033 0xF0FF ∧
    ∀ s : State, s.mem.wf → Completes (.ldB x) s
      { stored := [dataAddr (s.indexAddr 0), dataAddr (s.indexAddr 1), dataAddr (s.indexAddr 2)] } (fun t =>
      (t.memRead (s.i.toNat % 4096)).toNat = (s.reg x).toNat / 100 ∧
      (t.memRead ((s.i.toNat + 1) % 4096)).toNat = (s.reg x).toNat / 10 % 10 ∧
      (t.memRead ((s.i.toNat + 2) % 4096)).toNat = (s.reg x).toNat % 10 ∧
      t.pc = s.pc + 2)

/-- R194: Fx55 stores V0 to Vx, x included, at I to I + x, each address reduced mod 4096; every other byte, I and everything else but `pc`
is as before [decision D8]. -/
def Obligations.StoreRegistersWritesTheRange : Prop :=
  ∀ x, Encodes (.storeRegs x) 0xF055 0xF0FF ∧
    ∀ s : State, s.mem.wf → Completes (.storeRegs x) s
      { stored := (List.range (x.val + 1)).map (fun k => dataAddr (s.indexAddr k)) } (fun t =>
      (∀ k : Reg, k.val ≤ x.val → t.memRead ((s.i.toNat + k.val) % 4096) = s.reg k) ∧ t.pc = s.pc + 2)

/-- R195: Fx65 loads V0 to Vx, x included, from I to I + x, each address reduced mod 4096; the registers above Vx, I, memory and everything
else but `pc` are as before [decision D8]. -/
def Obligations.LoadRegistersReadsTheRange : Prop :=
  ∀ x, Encodes (.loadRegs x) 0xF065 0xF0FF ∧
    ∀ s : State, Completes (.loadRegs x) s
      { regs := (List.finRange 16).filter (fun k => k.val ≤ x.val) } (fun t =>
      (∀ k : Reg, k.val ≤ x.val → t.reg k = s.memRead ((s.i.toNat + k.val) % 4096)) ∧ t.pc = s.pc + 2)

/-- R61, R192, R262: after `load_font()`, Fx29 with V[x] = d, a digit 0 to 15, points I at the five bytes of `FONT` that are glyph d,
whatever `FONT` is [decision D17]. -/
def Obligations.GlyphOfADigitIsItsFiveFontBytes : Prop :=
  ∀ (s t : State) (x d : Fin 16) (r : Fin 5), s.mem.wf → (s.reg x).toNat = d.val → exec (.ldF x) s.loadFont = .next t →
    t.memRead (t.i.toNat + r.val) = s.params.font[5 * d.val + r.val]

/-! ## Keys and timers (spec/44_keys_timers.md) -/

/-- R216, R217: Fx15 loads V[x] into DT and Fx18 into ST; nothing else changes but `pc`. -/
def Obligations.TimerLoads : Prop :=
  (∀ x, Encodes (.ldDtVx x) 0xF015 0xF0FF ∧
    ∀ s, Completes (.ldDtVx x) s { dt := true } (fun t => t.dt = s.reg x ∧ t.pc = s.pc + 2)) ∧
  (∀ x, Encodes (.ldStVx x) 0xF018 0xF0FF ∧
    ∀ s, Completes (.ldStVx x) s { st := true } (fun t => t.st = s.reg x ∧ t.pc = s.pc + 2))

/-- R210, R211, R212, R236: with V[x] at most 15, Ex9E skips when key V[x] is pressed and ExA1 when it is not, and nothing changes but `pc`;
with V[x] above 15 both halt with `KeyIndexOutOfRange(V[x], pc)` and nothing changes but the mode [decisions D12, D15; as a next state: the
model's form, notes/assumptions/7.md]. -/
def Obligations.KeySkipsTestTheLatch : Prop :=
  ∀ x : Reg, Encodes (.skp x) 0xE09E 0xF0FF ∧ Encodes (.sknp x) 0xE0A1 0xF0FF ∧
    (∀ (s : State) (k : Key), (s.reg x).toNat = k.val →
      Completes (.skp x) s {} (fun t => t.pc = if s.keys[k.val] = true then s.pc + 4 else s.pc + 2) ∧
      Completes (.sknp x) s {} (fun t => t.pc = if s.keys[k.val] = true then s.pc + 2 else s.pc + 4)) ∧
    (∀ s : State, (s.reg x).toNat > 15 →
      Halts (.skp x) s (.keyIndexOutOfRange (s.reg x) s.pc) ∧ Halts (.sknp x) s (.keyIndexOutOfRange (s.reg x) s.pc))

/-- R214: Fx0A under `Edge`, or under `Level` with no key held, enters the key-wait: KW_REG is x, KW_PREV the keys as they are, mode
AwaitKey, `pc` unchanged; under `Level` with a key held it completes at once with the picked key in Vx. Nothing else changes
[decision D13]. That the draw is `Config.freeKey` at `draws`, and that a capture raises `draws` by one, is the model's numbering of draws
(notes/assumptions/3.md). -/
def Obligations.KeyWaitEntry : Prop :=
  ∀ x : Reg, Encodes (.ldVxK x) 0xF00A 0xF0FF ∧
    (∀ s : State, (s.params.keyTrigger = .edge ∨ ∀ k : Key, s.keys[k.val] = false) →
      Completes (.ldVxK x) s { keyWait := true, mode := true } (fun t =>
        t.kwReg = x ∧ t.kwPrev = s.keys ∧ t.mode = .awaitKey ∧ t.pc = s.pc)) ∧
    (∀ s : State, s.params.keyTrigger = .level → (∃ k : Key, s.keys[k.val] = true) →
      Completes (.ldVxK x) s { regs := [x], draws := true } (fun t =>
        (∃ k, IsPick (fun j => s.keys[j.val] = true) (Config.freeKey s.draws) k ∧ (t.reg x).toNat = k.val) ∧
        t.pc = s.pc + 2 ∧ t.draws = s.draws + 1))

/-- R215: the poll. A waiting core's step, with no key that qualifies, only renews KW_PREV; with one, it puts `Pick(N, kd)` in V[KW_REG],
moves `pc` past the Fx0A and runs on, and nothing else changes [decisions D13, D14]. That the draw is
`Config.freeKey` at `draws`, and that a capture raises `draws` by one, is the model's numbering of draws (notes/assumptions/3.md). -/
def Obligations.KeyWaitPollCapturesAQualifyingKey : Prop :=
  ∀ s : State, s.mode = .awaitKey →
    ((∀ k, ¬ Qualifies s k) → step s = .next { s with kwPrev := s.keys }) ∧
    ((∃ k, Qualifies s k) → ∃ t, step s = .next t ∧
      Frame s t { regs := [s.kwReg], mode := true, draws := true } ∧ t.mode = .run ∧ t.pc = s.pc + 2 ∧
      t.draws = s.draws + 1 ∧
      ∃ k, IsPick (Qualifies s) (Config.freeKey s.draws) k ∧ (t.reg s.kwReg).toNat = k.val)

/-- R215: every qualifying key is the one captured for some draw `kd`, and no other key is [decision D13]. -/
def Obligations.EveryQualifyingKeyIsCapturedForSomeDraw : Prop :=
  ∀ (s : State) (j : Key), (∃ k, Qualifies s k) →
    ((∃ kd, ((s.pollWith kd).reg s.kwReg).toNat = j.val) ↔ Qualifies s j)

/-! ## Host transactions (spec/10_state.md R42; spec/60_exceptions.md; spec/70_reset_and_hazards.md) -/

/-- R245: `tick_timers()`: each timer above 0 goes down by one, one at 0 stays; nothing else changes, in every mode [decision D29]. -/
def Obligations.TickDecrementsBothTimersToAFloor : Prop :=
  ∀ s : State, ∃ t, s.transact .tickTimers = .next t ∧ Frame s t { dt := true, st := true } ∧ t.pc = s.pc ∧
    (s.dt.toNat > 0 → t.dt.toNat + 1 = s.dt.toNat) ∧ (s.dt.toNat = 0 → t.dt.toNat = 0) ∧
    (s.st.toNat > 0 → t.st.toNat + 1 = s.st.toNat) ∧ (s.st.toNat = 0 → t.st.toNat = 0)

/-- R248, R249: `framebuffer()` returns FB and `sound_active()` returns `ST > 0`; both change nothing. -/
def Obligations.ReadPortsReturnAndChangeNothing : Prop :=
  ∀ s : State,
    s.transact .framebuffer = .next s ∧ s.respond .framebuffer = .view s.fb ∧
    s.transact .soundActive = .next s ∧
    (s.st ≠ 0 → s.respond .soundActive = .level true) ∧ (s.st = 0 → s.respond .soundActive = .level false)

/-- R247: `set_key(k, pressed)` sets `KEYS[k]` and changes nothing else, in any mode. A k above 15 cannot be written [decision D22;
notes/assumptions/21.md]. -/
def Obligations.SetKeyWritesOneKey : Prop :=
  ∀ (s : State) (k : Key) (p : Bool), ∃ keys : Vector Bool 16,
    s.transact (.setKey k p) = .next { s with keys := keys } ∧
    ∀ j : Key, keys[j.val] = if j = k then p else s.keys[j.val]

/-- R262: `load_font()` writes the 80 bytes of `FONT` at 0x000 to 0x04F; every other byte and everything else is as before
[decision D17]. -/
def Obligations.LoadFontWritesTheEightyBytes : Prop :=
  ∀ s : State, s.mem.wf → ∃ t, s.transact .loadFont = .next t ∧ Frame s t { stored := List.range 80 } ∧ t.pc = s.pc ∧
    ∀ a : Fin 80, t.memRead a.val = s.params.font[a.val]

/-- R263: `load_program(bytes)` copies up to 3584 bytes to 0x200 on; every other byte and everything else is as before; a longer call is no
move the host can make, and the model refuses it by name [decision D21]. -/
def Obligations.LoadProgramCopiesTheBytes : Prop :=
  ∀ (s : State) (bytes : List Byte),
    (s.mem.wf → bytes.length ≤ 3584 → ∃ t, s.transact (.loadProgram bytes) = .next t ∧
      Frame s t { stored := (List.range bytes.length).map (0x200 + ·) } ∧ t.pc = s.pc ∧
      ∀ k, (h : k < bytes.length) → t.memRead (0x200 + k) = bytes[k]) ∧
    (bytes.length > 3584 → s.transact (.loadProgram bytes) = .refused .programTooLong)

/-- R260: `reset()` from any state, halted ones included, and the state after construction: every item at the value R260 gives; only
`pc = 0x200` is the source's, the others are the spec's choice [decision D16; notes/assumptions/5.md]. The two clauses on the parameters
of R7 are the model's choice (notes/assumptions/1.md): `reset()` keeps them, and `State.reset` has the defaults. -/
def Obligations.ResetSetsEveryItem : Prop :=
  ∀ s t : State, (s.transact .reset = .next t ∨ t = State.reset) →
    (∀ x, t.reg x = 0) ∧ t.i = 0 ∧ t.pc = 0x200 ∧ (∀ j : Fin 16, t.stack[j.val] = 0) ∧ t.sp.val = 0 ∧ t.dt = 0 ∧ t.st = 0 ∧
    (∀ k : Key, t.keys[k.val] = false) ∧ (∀ c r, t.fb.pixel c r = false) ∧ (∀ a, t.memRead a = 0) ∧ t.mode = .run ∧
    t.kwReg = 0 ∧ (∀ k : Key, t.kwPrev[k.val] = false) ∧
    (s.transact .reset = .next t → t.params = s.params) ∧
    (t = State.reset → t.params = Config.defaultParams)
end

