-- ==== Sys2Proof/Laws/State.lean ====
section
/-! SUPPORT. One lemma per field per update of State: what each update writes and what it leaves. -/

namespace Sys2Proof.Machine

variable (s : State)

/-! ### setV -/

@[simp] theorem State.setV_params (v : Vector Byte 16) : (s.setV v).params = s.params := rfl
@[simp] theorem State.setV_v (v : Vector Byte 16) : (s.setV v).v = v := rfl
@[simp] theorem State.setV_i (v : Vector Byte 16) : (s.setV v).i = s.i := rfl
@[simp] theorem State.setV_pc (v : Vector Byte 16) : (s.setV v).pc = s.pc := rfl
@[simp] theorem State.setV_stack (v : Vector Byte 16) : (s.setV v).stack = s.stack := rfl
@[simp] theorem State.setV_sp (v : Vector Byte 16) : (s.setV v).sp = s.sp := rfl
@[simp] theorem State.setV_dt (v : Vector Byte 16) : (s.setV v).dt = s.dt := rfl
@[simp] theorem State.setV_st (v : Vector Byte 16) : (s.setV v).st = s.st := rfl
@[simp] theorem State.setV_keys (v : Vector Byte 16) : (s.setV v).keys = s.keys := rfl
@[simp] theorem State.setV_fb (v : Vector Byte 16) : (s.setV v).fb = s.fb := rfl
@[simp] theorem State.setV_mem (v : Vector Byte 16) : (s.setV v).mem = s.mem := rfl
@[simp] theorem State.setV_mode (v : Vector Byte 16) : (s.setV v).mode = s.mode := rfl
@[simp] theorem State.setV_kwReg (v : Vector Byte 16) : (s.setV v).kwReg = s.kwReg := rfl
@[simp] theorem State.setV_kwPrev (v : Vector Byte 16) : (s.setV v).kwPrev = s.kwPrev := rfl
@[simp] theorem State.setV_draws (v : Vector Byte 16) : (s.setV v).draws = s.draws := rfl

/-! ### setI -/

@[simp] theorem State.setI_params (a : Word) : (s.setI a).params = s.params := rfl
@[simp] theorem State.setI_v (a : Word) : (s.setI a).v = s.v := rfl
@[simp] theorem State.setI_i (a : Word) : (s.setI a).i = a := rfl
@[simp] theorem State.setI_pc (a : Word) : (s.setI a).pc = s.pc := rfl
@[simp] theorem State.setI_stack (a : Word) : (s.setI a).stack = s.stack := rfl
@[simp] theorem State.setI_sp (a : Word) : (s.setI a).sp = s.sp := rfl
@[simp] theorem State.setI_dt (a : Word) : (s.setI a).dt = s.dt := rfl
@[simp] theorem State.setI_st (a : Word) : (s.setI a).st = s.st := rfl
@[simp] theorem State.setI_keys (a : Word) : (s.setI a).keys = s.keys := rfl
@[simp] theorem State.setI_fb (a : Word) : (s.setI a).fb = s.fb := rfl
@[simp] theorem State.setI_mem (a : Word) : (s.setI a).mem = s.mem := rfl
@[simp] theorem State.setI_mode (a : Word) : (s.setI a).mode = s.mode := rfl
@[simp] theorem State.setI_kwReg (a : Word) : (s.setI a).kwReg = s.kwReg := rfl
@[simp] theorem State.setI_kwPrev (a : Word) : (s.setI a).kwPrev = s.kwPrev := rfl
@[simp] theorem State.setI_draws (a : Word) : (s.setI a).draws = s.draws := rfl

/-! ### setPc -/

@[simp] theorem State.setPc_params (a : Word) : (s.setPc a).params = s.params := rfl
@[simp] theorem State.setPc_v (a : Word) : (s.setPc a).v = s.v := rfl
@[simp] theorem State.setPc_i (a : Word) : (s.setPc a).i = s.i := rfl
@[simp] theorem State.setPc_pc (a : Word) : (s.setPc a).pc = a := rfl
@[simp] theorem State.setPc_stack (a : Word) : (s.setPc a).stack = s.stack := rfl
@[simp] theorem State.setPc_sp (a : Word) : (s.setPc a).sp = s.sp := rfl
@[simp] theorem State.setPc_dt (a : Word) : (s.setPc a).dt = s.dt := rfl
@[simp] theorem State.setPc_st (a : Word) : (s.setPc a).st = s.st := rfl
@[simp] theorem State.setPc_keys (a : Word) : (s.setPc a).keys = s.keys := rfl
@[simp] theorem State.setPc_fb (a : Word) : (s.setPc a).fb = s.fb := rfl
@[simp] theorem State.setPc_mem (a : Word) : (s.setPc a).mem = s.mem := rfl
@[simp] theorem State.setPc_mode (a : Word) : (s.setPc a).mode = s.mode := rfl
@[simp] theorem State.setPc_kwReg (a : Word) : (s.setPc a).kwReg = s.kwReg := rfl
@[simp] theorem State.setPc_kwPrev (a : Word) : (s.setPc a).kwPrev = s.kwPrev := rfl
@[simp] theorem State.setPc_draws (a : Word) : (s.setPc a).draws = s.draws := rfl

/-! ### setStack -/

@[simp] theorem State.setStack_params (k : Vector Word 16) (d : Fin 17) : (s.setStack k d).params = s.params := rfl
@[simp] theorem State.setStack_v (k : Vector Word 16) (d : Fin 17) : (s.setStack k d).v = s.v := rfl
@[simp] theorem State.setStack_i (k : Vector Word 16) (d : Fin 17) : (s.setStack k d).i = s.i := rfl
@[simp] theorem State.setStack_pc (k : Vector Word 16) (d : Fin 17) : (s.setStack k d).pc = s.pc := rfl
@[simp] theorem State.setStack_stack (k : Vector Word 16) (d : Fin 17) : (s.setStack k d).stack = k := rfl
@[simp] theorem State.setStack_sp (k : Vector Word 16) (d : Fin 17) : (s.setStack k d).sp = d := rfl
@[simp] theorem State.setStack_dt (k : Vector Word 16) (d : Fin 17) : (s.setStack k d).dt = s.dt := rfl
@[simp] theorem State.setStack_st (k : Vector Word 16) (d : Fin 17) : (s.setStack k d).st = s.st := rfl
@[simp] theorem State.setStack_keys (k : Vector Word 16) (d : Fin 17) : (s.setStack k d).keys = s.keys := rfl
@[simp] theorem State.setStack_fb (k : Vector Word 16) (d : Fin 17) : (s.setStack k d).fb = s.fb := rfl
@[simp] theorem State.setStack_mem (k : Vector Word 16) (d : Fin 17) : (s.setStack k d).mem = s.mem := rfl
@[simp] theorem State.setStack_mode (k : Vector Word 16) (d : Fin 17) : (s.setStack k d).mode = s.mode := rfl
@[simp] theorem State.setStack_kwReg (k : Vector Word 16) (d : Fin 17) : (s.setStack k d).kwReg = s.kwReg := rfl
@[simp] theorem State.setStack_kwPrev (k : Vector Word 16) (d : Fin 17) : (s.setStack k d).kwPrev = s.kwPrev := rfl
@[simp] theorem State.setStack_draws (k : Vector Word 16) (d : Fin 17) : (s.setStack k d).draws = s.draws := rfl

/-! ### setDt -/

@[simp] theorem State.setDt_params (b : Byte) : (s.setDt b).params = s.params := rfl
@[simp] theorem State.setDt_v (b : Byte) : (s.setDt b).v = s.v := rfl
@[simp] theorem State.setDt_i (b : Byte) : (s.setDt b).i = s.i := rfl
@[simp] theorem State.setDt_pc (b : Byte) : (s.setDt b).pc = s.pc := rfl
@[simp] theorem State.setDt_stack (b : Byte) : (s.setDt b).stack = s.stack := rfl
@[simp] theorem State.setDt_sp (b : Byte) : (s.setDt b).sp = s.sp := rfl
@[simp] theorem State.setDt_dt (b : Byte) : (s.setDt b).dt = b := rfl
@[simp] theorem State.setDt_st (b : Byte) : (s.setDt b).st = s.st := rfl
@[simp] theorem State.setDt_keys (b : Byte) : (s.setDt b).keys = s.keys := rfl
@[simp] theorem State.setDt_fb (b : Byte) : (s.setDt b).fb = s.fb := rfl
@[simp] theorem State.setDt_mem (b : Byte) : (s.setDt b).mem = s.mem := rfl
@[simp] theorem State.setDt_mode (b : Byte) : (s.setDt b).mode = s.mode := rfl
@[simp] theorem State.setDt_kwReg (b : Byte) : (s.setDt b).kwReg = s.kwReg := rfl
@[simp] theorem State.setDt_kwPrev (b : Byte) : (s.setDt b).kwPrev = s.kwPrev := rfl
@[simp] theorem State.setDt_draws (b : Byte) : (s.setDt b).draws = s.draws := rfl

/-! ### setSt -/

@[simp] theorem State.setSt_params (b : Byte) : (s.setSt b).params = s.params := rfl
@[simp] theorem State.setSt_v (b : Byte) : (s.setSt b).v = s.v := rfl
@[simp] theorem State.setSt_i (b : Byte) : (s.setSt b).i = s.i := rfl
@[simp] theorem State.setSt_pc (b : Byte) : (s.setSt b).pc = s.pc := rfl
@[simp] theorem State.setSt_stack (b : Byte) : (s.setSt b).stack = s.stack := rfl
@[simp] theorem State.setSt_sp (b : Byte) : (s.setSt b).sp = s.sp := rfl
@[simp] theorem State.setSt_dt (b : Byte) : (s.setSt b).dt = s.dt := rfl
@[simp] theorem State.setSt_st (b : Byte) : (s.setSt b).st = b := rfl
@[simp] theorem State.setSt_keys (b : Byte) : (s.setSt b).keys = s.keys := rfl
@[simp] theorem State.setSt_fb (b : Byte) : (s.setSt b).fb = s.fb := rfl
@[simp] theorem State.setSt_mem (b : Byte) : (s.setSt b).mem = s.mem := rfl
@[simp] theorem State.setSt_mode (b : Byte) : (s.setSt b).mode = s.mode := rfl
@[simp] theorem State.setSt_kwReg (b : Byte) : (s.setSt b).kwReg = s.kwReg := rfl
@[simp] theorem State.setSt_kwPrev (b : Byte) : (s.setSt b).kwPrev = s.kwPrev := rfl
@[simp] theorem State.setSt_draws (b : Byte) : (s.setSt b).draws = s.draws := rfl

/-! ### setKeys -/

@[simp] theorem State.setKeys_params (k : Vector Bool 16) : (s.setKeys k).params = s.params := rfl
@[simp] theorem State.setKeys_v (k : Vector Bool 16) : (s.setKeys k).v = s.v := rfl
@[simp] theorem State.setKeys_i (k : Vector Bool 16) : (s.setKeys k).i = s.i := rfl
@[simp] theorem State.setKeys_pc (k : Vector Bool 16) : (s.setKeys k).pc = s.pc := rfl
@[simp] theorem State.setKeys_stack (k : Vector Bool 16) : (s.setKeys k).stack = s.stack := rfl
@[simp] theorem State.setKeys_sp (k : Vector Bool 16) : (s.setKeys k).sp = s.sp := rfl
@[simp] theorem State.setKeys_dt (k : Vector Bool 16) : (s.setKeys k).dt = s.dt := rfl
@[simp] theorem State.setKeys_st (k : Vector Bool 16) : (s.setKeys k).st = s.st := rfl
@[simp] theorem State.setKeys_keys (k : Vector Bool 16) : (s.setKeys k).keys = k := rfl
@[simp] theorem State.setKeys_fb (k : Vector Bool 16) : (s.setKeys k).fb = s.fb := rfl
@[simp] theorem State.setKeys_mem (k : Vector Bool 16) : (s.setKeys k).mem = s.mem := rfl
@[simp] theorem State.setKeys_mode (k : Vector Bool 16) : (s.setKeys k).mode = s.mode := rfl
@[simp] theorem State.setKeys_kwReg (k : Vector Bool 16) : (s.setKeys k).kwReg = s.kwReg := rfl
@[simp] theorem State.setKeys_kwPrev (k : Vector Bool 16) : (s.setKeys k).kwPrev = s.kwPrev := rfl
@[simp] theorem State.setKeys_draws (k : Vector Bool 16) : (s.setKeys k).draws = s.draws := rfl

/-! ### setFb -/

@[simp] theorem State.setFb_params (f : FrameBuffer) : (s.setFb f).params = s.params := rfl
@[simp] theorem State.setFb_v (f : FrameBuffer) : (s.setFb f).v = s.v := rfl
@[simp] theorem State.setFb_i (f : FrameBuffer) : (s.setFb f).i = s.i := rfl
@[simp] theorem State.setFb_pc (f : FrameBuffer) : (s.setFb f).pc = s.pc := rfl
@[simp] theorem State.setFb_stack (f : FrameBuffer) : (s.setFb f).stack = s.stack := rfl
@[simp] theorem State.setFb_sp (f : FrameBuffer) : (s.setFb f).sp = s.sp := rfl
@[simp] theorem State.setFb_dt (f : FrameBuffer) : (s.setFb f).dt = s.dt := rfl
@[simp] theorem State.setFb_st (f : FrameBuffer) : (s.setFb f).st = s.st := rfl
@[simp] theorem State.setFb_keys (f : FrameBuffer) : (s.setFb f).keys = s.keys := rfl
@[simp] theorem State.setFb_fb (f : FrameBuffer) : (s.setFb f).fb = f := rfl
@[simp] theorem State.setFb_mem (f : FrameBuffer) : (s.setFb f).mem = s.mem := rfl
@[simp] theorem State.setFb_mode (f : FrameBuffer) : (s.setFb f).mode = s.mode := rfl
@[simp] theorem State.setFb_kwReg (f : FrameBuffer) : (s.setFb f).kwReg = s.kwReg := rfl
@[simp] theorem State.setFb_kwPrev (f : FrameBuffer) : (s.setFb f).kwPrev = s.kwPrev := rfl
@[simp] theorem State.setFb_draws (f : FrameBuffer) : (s.setFb f).draws = s.draws := rfl

/-! ### setMem -/

@[simp] theorem State.setMem_params (m : Memory) : (s.setMem m).params = s.params := rfl
@[simp] theorem State.setMem_v (m : Memory) : (s.setMem m).v = s.v := rfl
@[simp] theorem State.setMem_i (m : Memory) : (s.setMem m).i = s.i := rfl
@[simp] theorem State.setMem_pc (m : Memory) : (s.setMem m).pc = s.pc := rfl
@[simp] theorem State.setMem_stack (m : Memory) : (s.setMem m).stack = s.stack := rfl
@[simp] theorem State.setMem_sp (m : Memory) : (s.setMem m).sp = s.sp := rfl
@[simp] theorem State.setMem_dt (m : Memory) : (s.setMem m).dt = s.dt := rfl
@[simp] theorem State.setMem_st (m : Memory) : (s.setMem m).st = s.st := rfl
@[simp] theorem State.setMem_keys (m : Memory) : (s.setMem m).keys = s.keys := rfl
@[simp] theorem State.setMem_fb (m : Memory) : (s.setMem m).fb = s.fb := rfl
@[simp] theorem State.setMem_mem (m : Memory) : (s.setMem m).mem = m := rfl
@[simp] theorem State.setMem_mode (m : Memory) : (s.setMem m).mode = s.mode := rfl
@[simp] theorem State.setMem_kwReg (m : Memory) : (s.setMem m).kwReg = s.kwReg := rfl
@[simp] theorem State.setMem_kwPrev (m : Memory) : (s.setMem m).kwPrev = s.kwPrev := rfl
@[simp] theorem State.setMem_draws (m : Memory) : (s.setMem m).draws = s.draws := rfl

/-! ### setMode -/

@[simp] theorem State.setMode_params (m : Mode) : (s.setMode m).params = s.params := rfl
@[simp] theorem State.setMode_v (m : Mode) : (s.setMode m).v = s.v := rfl
@[simp] theorem State.setMode_i (m : Mode) : (s.setMode m).i = s.i := rfl
@[simp] theorem State.setMode_pc (m : Mode) : (s.setMode m).pc = s.pc := rfl
@[simp] theorem State.setMode_stack (m : Mode) : (s.setMode m).stack = s.stack := rfl
@[simp] theorem State.setMode_sp (m : Mode) : (s.setMode m).sp = s.sp := rfl
@[simp] theorem State.setMode_dt (m : Mode) : (s.setMode m).dt = s.dt := rfl
@[simp] theorem State.setMode_st (m : Mode) : (s.setMode m).st = s.st := rfl
@[simp] theorem State.setMode_keys (m : Mode) : (s.setMode m).keys = s.keys := rfl
@[simp] theorem State.setMode_fb (m : Mode) : (s.setMode m).fb = s.fb := rfl
@[simp] theorem State.setMode_mem (m : Mode) : (s.setMode m).mem = s.mem := rfl
@[simp] theorem State.setMode_mode (m : Mode) : (s.setMode m).mode = m := rfl
@[simp] theorem State.setMode_kwReg (m : Mode) : (s.setMode m).kwReg = s.kwReg := rfl
@[simp] theorem State.setMode_kwPrev (m : Mode) : (s.setMode m).kwPrev = s.kwPrev := rfl
@[simp] theorem State.setMode_draws (m : Mode) : (s.setMode m).draws = s.draws := rfl

/-! ### setKeyWait -/

@[simp] theorem State.setKeyWait_params (x : Reg) (p : Vector Bool 16) : (s.setKeyWait x p).params = s.params := rfl
@[simp] theorem State.setKeyWait_v (x : Reg) (p : Vector Bool 16) : (s.setKeyWait x p).v = s.v := rfl
@[simp] theorem State.setKeyWait_i (x : Reg) (p : Vector Bool 16) : (s.setKeyWait x p).i = s.i := rfl
@[simp] theorem State.setKeyWait_pc (x : Reg) (p : Vector Bool 16) : (s.setKeyWait x p).pc = s.pc := rfl
@[simp] theorem State.setKeyWait_stack (x : Reg) (p : Vector Bool 16) : (s.setKeyWait x p).stack = s.stack := rfl
@[simp] theorem State.setKeyWait_sp (x : Reg) (p : Vector Bool 16) : (s.setKeyWait x p).sp = s.sp := rfl
@[simp] theorem State.setKeyWait_dt (x : Reg) (p : Vector Bool 16) : (s.setKeyWait x p).dt = s.dt := rfl
@[simp] theorem State.setKeyWait_st (x : Reg) (p : Vector Bool 16) : (s.setKeyWait x p).st = s.st := rfl
@[simp] theorem State.setKeyWait_keys (x : Reg) (p : Vector Bool 16) : (s.setKeyWait x p).keys = s.keys := rfl
@[simp] theorem State.setKeyWait_fb (x : Reg) (p : Vector Bool 16) : (s.setKeyWait x p).fb = s.fb := rfl
@[simp] theorem State.setKeyWait_mem (x : Reg) (p : Vector Bool 16) : (s.setKeyWait x p).mem = s.mem := rfl
@[simp] theorem State.setKeyWait_mode (x : Reg) (p : Vector Bool 16) : (s.setKeyWait x p).mode = s.mode := rfl
@[simp] theorem State.setKeyWait_kwReg (x : Reg) (p : Vector Bool 16) : (s.setKeyWait x p).kwReg = x := rfl
@[simp] theorem State.setKeyWait_kwPrev (x : Reg) (p : Vector Bool 16) : (s.setKeyWait x p).kwPrev = p := rfl
@[simp] theorem State.setKeyWait_draws (x : Reg) (p : Vector Bool 16) : (s.setKeyWait x p).draws = s.draws := rfl

/-! ### useDraw -/

@[simp] theorem State.useDraw_params : (s.useDraw).params = s.params := rfl
@[simp] theorem State.useDraw_v : (s.useDraw).v = s.v := rfl
@[simp] theorem State.useDraw_i : (s.useDraw).i = s.i := rfl
@[simp] theorem State.useDraw_pc : (s.useDraw).pc = s.pc := rfl
@[simp] theorem State.useDraw_stack : (s.useDraw).stack = s.stack := rfl
@[simp] theorem State.useDraw_sp : (s.useDraw).sp = s.sp := rfl
@[simp] theorem State.useDraw_dt : (s.useDraw).dt = s.dt := rfl
@[simp] theorem State.useDraw_st : (s.useDraw).st = s.st := rfl
@[simp] theorem State.useDraw_keys : (s.useDraw).keys = s.keys := rfl
@[simp] theorem State.useDraw_fb : (s.useDraw).fb = s.fb := rfl
@[simp] theorem State.useDraw_mem : (s.useDraw).mem = s.mem := rfl
@[simp] theorem State.useDraw_mode : (s.useDraw).mode = s.mode := rfl
@[simp] theorem State.useDraw_kwReg : (s.useDraw).kwReg = s.kwReg := rfl
@[simp] theorem State.useDraw_kwPrev : (s.useDraw).kwPrev = s.kwPrev := rfl
@[simp] theorem State.useDraw_draws : (s.useDraw).draws = s.draws + 1 := rfl

/-! ### setReg -/

@[simp] theorem State.setReg_params (x : Reg) (b : Byte) : (s.setReg x b).params = s.params := rfl
@[simp] theorem State.setReg_v (x : Reg) (b : Byte) : (s.setReg x b).v = s.v.set x.val b := rfl
@[simp] theorem State.setReg_i (x : Reg) (b : Byte) : (s.setReg x b).i = s.i := rfl
@[simp] theorem State.setReg_pc (x : Reg) (b : Byte) : (s.setReg x b).pc = s.pc := rfl
@[simp] theorem State.setReg_stack (x : Reg) (b : Byte) : (s.setReg x b).stack = s.stack := rfl
@[simp] theorem State.setReg_sp (x : Reg) (b : Byte) : (s.setReg x b).sp = s.sp := rfl
@[simp] theorem State.setReg_dt (x : Reg) (b : Byte) : (s.setReg x b).dt = s.dt := rfl
@[simp] theorem State.setReg_st (x : Reg) (b : Byte) : (s.setReg x b).st = s.st := rfl
@[simp] theorem State.setReg_keys (x : Reg) (b : Byte) : (s.setReg x b).keys = s.keys := rfl
@[simp] theorem State.setReg_fb (x : Reg) (b : Byte) : (s.setReg x b).fb = s.fb := rfl
@[simp] theorem State.setReg_mem (x : Reg) (b : Byte) : (s.setReg x b).mem = s.mem := rfl
@[simp] theorem State.setReg_mode (x : Reg) (b : Byte) : (s.setReg x b).mode = s.mode := rfl
@[simp] theorem State.setReg_kwReg (x : Reg) (b : Byte) : (s.setReg x b).kwReg = s.kwReg := rfl
@[simp] theorem State.setReg_kwPrev (x : Reg) (b : Byte) : (s.setReg x b).kwPrev = s.kwPrev := rfl
@[simp] theorem State.setReg_draws (x : Reg) (b : Byte) : (s.setReg x b).draws = s.draws := rfl

/-! ### memWrite -/

@[simp] theorem State.memWrite_params (n : Nat) (b : Byte) : (s.memWrite n b).params = s.params := rfl
@[simp] theorem State.memWrite_v (n : Nat) (b : Byte) : (s.memWrite n b).v = s.v := rfl
@[simp] theorem State.memWrite_i (n : Nat) (b : Byte) : (s.memWrite n b).i = s.i := rfl
@[simp] theorem State.memWrite_pc (n : Nat) (b : Byte) : (s.memWrite n b).pc = s.pc := rfl
@[simp] theorem State.memWrite_stack (n : Nat) (b : Byte) : (s.memWrite n b).stack = s.stack := rfl
@[simp] theorem State.memWrite_sp (n : Nat) (b : Byte) : (s.memWrite n b).sp = s.sp := rfl
@[simp] theorem State.memWrite_dt (n : Nat) (b : Byte) : (s.memWrite n b).dt = s.dt := rfl
@[simp] theorem State.memWrite_st (n : Nat) (b : Byte) : (s.memWrite n b).st = s.st := rfl
@[simp] theorem State.memWrite_keys (n : Nat) (b : Byte) : (s.memWrite n b).keys = s.keys := rfl
@[simp] theorem State.memWrite_fb (n : Nat) (b : Byte) : (s.memWrite n b).fb = s.fb := rfl
@[simp] theorem State.memWrite_mem (n : Nat) (b : Byte) : (s.memWrite n b).mem = s.mem.write (dataAddr n) b := rfl
@[simp] theorem State.memWrite_mode (n : Nat) (b : Byte) : (s.memWrite n b).mode = s.mode := rfl
@[simp] theorem State.memWrite_kwReg (n : Nat) (b : Byte) : (s.memWrite n b).kwReg = s.kwReg := rfl
@[simp] theorem State.memWrite_kwPrev (n : Nat) (b : Byte) : (s.memWrite n b).kwPrev = s.kwPrev := rfl
@[simp] theorem State.memWrite_draws (n : Nat) (b : Byte) : (s.memWrite n b).draws = s.draws := rfl

/-! ### advance -/

@[simp] theorem State.advance_params (s0 : State) : (s.advance s0).params = s.params := rfl
@[simp] theorem State.advance_v (s0 : State) : (s.advance s0).v = s.v := rfl
@[simp] theorem State.advance_i (s0 : State) : (s.advance s0).i = s.i := rfl
@[simp] theorem State.advance_pc (s0 : State) : (s.advance s0).pc = s0.nextPc := rfl
@[simp] theorem State.advance_stack (s0 : State) : (s.advance s0).stack = s.stack := rfl
@[simp] theorem State.advance_sp (s0 : State) : (s.advance s0).sp = s.sp := rfl
@[simp] theorem State.advance_dt (s0 : State) : (s.advance s0).dt = s.dt := rfl
@[simp] theorem State.advance_st (s0 : State) : (s.advance s0).st = s.st := rfl
@[simp] theorem State.advance_keys (s0 : State) : (s.advance s0).keys = s.keys := rfl
@[simp] theorem State.advance_fb (s0 : State) : (s.advance s0).fb = s.fb := rfl
@[simp] theorem State.advance_mem (s0 : State) : (s.advance s0).mem = s.mem := rfl
@[simp] theorem State.advance_mode (s0 : State) : (s.advance s0).mode = s.mode := rfl
@[simp] theorem State.advance_kwReg (s0 : State) : (s.advance s0).kwReg = s.kwReg := rfl
@[simp] theorem State.advance_kwPrev (s0 : State) : (s.advance s0).kwPrev = s.kwPrev := rfl
@[simp] theorem State.advance_draws (s0 : State) : (s.advance s0).draws = s.draws := rfl

/-! ### skipIf -/

@[simp] theorem State.skipIf_params (c : Bool) : (s.skipIf c).params = s.params := rfl
@[simp] theorem State.skipIf_v (c : Bool) : (s.skipIf c).v = s.v := rfl
@[simp] theorem State.skipIf_i (c : Bool) : (s.skipIf c).i = s.i := rfl
@[simp] theorem State.skipIf_pc (c : Bool) : (s.skipIf c).pc = if c then s.skipPc else s.nextPc := rfl
@[simp] theorem State.skipIf_stack (c : Bool) : (s.skipIf c).stack = s.stack := rfl
@[simp] theorem State.skipIf_sp (c : Bool) : (s.skipIf c).sp = s.sp := rfl
@[simp] theorem State.skipIf_dt (c : Bool) : (s.skipIf c).dt = s.dt := rfl
@[simp] theorem State.skipIf_st (c : Bool) : (s.skipIf c).st = s.st := rfl
@[simp] theorem State.skipIf_keys (c : Bool) : (s.skipIf c).keys = s.keys := rfl
@[simp] theorem State.skipIf_fb (c : Bool) : (s.skipIf c).fb = s.fb := rfl
@[simp] theorem State.skipIf_mem (c : Bool) : (s.skipIf c).mem = s.mem := rfl
@[simp] theorem State.skipIf_mode (c : Bool) : (s.skipIf c).mode = s.mode := rfl
@[simp] theorem State.skipIf_kwReg (c : Bool) : (s.skipIf c).kwReg = s.kwReg := rfl
@[simp] theorem State.skipIf_kwPrev (c : Bool) : (s.skipIf c).kwPrev = s.kwPrev := rfl
@[simp] theorem State.skipIf_draws (c : Bool) : (s.skipIf c).draws = s.draws := rfl

/-! ### The reads of one register and of one byte, under the updates that do not touch them -/

@[simp] theorem State.setV_memRead (v : Vector Byte 16) (adr : Nat) : (s.setV v).memRead adr = s.memRead adr := rfl
@[simp] theorem State.setI_reg (a : Word) (x : Reg) : (s.setI a).reg x = s.reg x := rfl
@[simp] theorem State.setI_memRead (a : Word) (adr : Nat) : (s.setI a).memRead adr = s.memRead adr := rfl
@[simp] theorem State.setPc_reg (a : Word) (x : Reg) : (s.setPc a).reg x = s.reg x := rfl
@[simp] theorem State.setPc_memRead (a : Word) (adr : Nat) : (s.setPc a).memRead adr = s.memRead adr := rfl
@[simp] theorem State.setStack_reg (k : Vector Word 16) (d : Fin 17) (x : Reg) : (s.setStack k d).reg x = s.reg x := rfl
@[simp] theorem State.setStack_memRead (k : Vector Word 16) (d : Fin 17) (adr : Nat) : (s.setStack k d).memRead adr = s.memRead adr := rfl
@[simp] theorem State.setDt_reg (b : Byte) (x : Reg) : (s.setDt b).reg x = s.reg x := rfl
@[simp] theorem State.setDt_memRead (b : Byte) (adr : Nat) : (s.setDt b).memRead adr = s.memRead adr := rfl
@[simp] theorem State.setSt_reg (b : Byte) (x : Reg) : (s.setSt b).reg x = s.reg x := rfl
@[simp] theorem State.setSt_memRead (b : Byte) (adr : Nat) : (s.setSt b).memRead adr = s.memRead adr := rfl
@[simp] theorem State.setKeys_reg (k : Vector Bool 16) (x : Reg) : (s.setKeys k).reg x = s.reg x := rfl
@[simp] theorem State.setKeys_memRead (k : Vector Bool 16) (adr : Nat) : (s.setKeys k).memRead adr = s.memRead adr := rfl
@[simp] theorem State.setFb_reg (f : FrameBuffer) (x : Reg) : (s.setFb f).reg x = s.reg x := rfl
@[simp] theorem State.setFb_memRead (f : FrameBuffer) (adr : Nat) : (s.setFb f).memRead adr = s.memRead adr := rfl
@[simp] theorem State.setMem_reg (m : Memory) (x : Reg) : (s.setMem m).reg x = s.reg x := rfl
@[simp] theorem State.setMode_reg (m : Mode) (x : Reg) : (s.setMode m).reg x = s.reg x := rfl
@[simp] theorem State.setMode_memRead (m : Mode) (adr : Nat) : (s.setMode m).memRead adr = s.memRead adr := rfl
@[simp] theorem State.setKeyWait_reg (z : Reg) (p : Vector Bool 16) (x : Reg) : (s.setKeyWait z p).reg x = s.reg x := rfl
@[simp] theorem State.setKeyWait_memRead (z : Reg) (p : Vector Bool 16) (adr : Nat) : (s.setKeyWait z p).memRead adr = s.memRead adr := rfl
@[simp] theorem State.useDraw_reg (x : Reg) : (s.useDraw).reg x = s.reg x := rfl
@[simp] theorem State.useDraw_memRead (adr : Nat) : (s.useDraw).memRead adr = s.memRead adr := rfl
@[simp] theorem State.setReg_memRead (z : Reg) (b : Byte) (adr : Nat) : (s.setReg z b).memRead adr = s.memRead adr := rfl
@[simp] theorem State.memWrite_reg (n : Nat) (b : Byte) (x : Reg) : (s.memWrite n b).reg x = s.reg x := rfl
@[simp] theorem State.advance_reg (s0 : State) (x : Reg) : (s.advance s0).reg x = s.reg x := rfl
@[simp] theorem State.advance_memRead (s0 : State) (adr : Nat) : (s.advance s0).memRead adr = s.memRead adr := rfl
@[simp] theorem State.skipIf_reg (c : Bool) (x : Reg) : (s.skipIf c).reg x = s.reg x := rfl
@[simp] theorem State.skipIf_memRead (c : Bool) (adr : Nat) : (s.skipIf c).memRead adr = s.memRead adr := rfl

end Sys2Proof.Machine
end

