-- ==== Sys2Proof/Laws/Memory.lean ====
section
/-! SUPPORT. Memory: a read after a write (the same byte, another byte), and that the one write operation keeps the canonical form.
The canonical form makes equal memories equal lists. -/

namespace Sys2Proof.Machine

@[simp] theorem Memory.read_nil (a : Nat) : Memory.read [] a = Memory.unlisted := rfl

theorem Memory.read_cons (c : Host.Cell) (m : Memory) (a : Nat) :
    Memory.read (c :: m) a = if a = c.1 then c.2 else Memory.read m a := rfl

/-- An address below or between the listed ones reads as an unlisted one. -/
theorem Memory.read_eq_unlisted {m : Memory} {a : Nat} (h : ∀ c ∈ m, c.1 ≠ a) : Memory.read m a = Memory.unlisted := by
  induction m with
  | nil => rfl
  | cons c rest ih =>
    rw [Memory.read_cons, if_neg (fun e => h c (List.mem_cons_self ..) e.symm)]
    exact ih (fun d hd => h d (List.mem_cons_of_mem _ hd))

theorem Memory.read_put (m : Memory) (a : Nat) (b : Byte) (a' : Nat) (h : ∀ c ∈ m, c.1 ≠ a) :
    Memory.read (Memory.put m a b) a' = if a' = a then b else Memory.read m a' := by
  unfold Memory.put
  by_cases hb : b = Memory.unlisted
  · rw [if_pos hb]
    by_cases ha : a' = a
    · rw [if_pos ha, ha, hb, Memory.read_eq_unlisted h]
    · rw [if_neg ha]
  · rw [if_neg hb]
    rfl

theorem Memory.mem_put {m : Memory} {a : Nat} {b : Byte} {c : Host.Cell} (h : c ∈ Memory.put m a b) :
    (c = (a, b) ∧ b ≠ Memory.unlisted) ∨ c ∈ m := by
  unfold Memory.put at h
  by_cases hb : b = Memory.unlisted
  · rw [if_pos hb] at h
    exact .inr h
  · rw [if_neg hb] at h
    exact (List.mem_cons.mp h).imp (fun e => ⟨e, hb⟩) id

theorem Memory.mem_write {m : Memory} {a : Nat} {b : Byte} {c : Host.Cell} (h : c ∈ Memory.write m a b) :
    (c = (a, b) ∧ b ≠ Memory.unlisted) ∨ c ∈ m := by
  induction m with
  | nil => exact Memory.mem_put h
  | cons d rest ih =>
    rw [show Memory.write (d :: rest) a b = if a < d.1 then Memory.put (d :: rest) a b
      else if a = d.1 then Memory.put rest a b else d :: Memory.write rest a b from rfl] at h
    split at h
    · exact Memory.mem_put h
    · split at h
      · exact (Memory.mem_put h).imp id (List.mem_cons_of_mem _)
      · cases List.mem_cons.mp h with
        | inl e => exact .inr (e ▸ List.mem_cons_self ..)
        | inr h' => exact (ih h').imp id (List.mem_cons_of_mem _)

theorem Memory.sorted_put {m : Memory} {a : Nat} {b : Byte} (hm : m.Pairwise (fun c d => c.1 < d.1))
    (h : ∀ c ∈ m, a < c.1) : (Memory.put m a b).Pairwise (fun c d => c.1 < d.1) := by
  unfold Memory.put
  split
  · exact hm
  · exact List.pairwise_cons.mpr ⟨h, hm⟩

theorem Memory.sorted_write {m : Memory} (a : Nat) (b : Byte) (hm : m.Pairwise (fun c d => c.1 < d.1)) :
    (Memory.write m a b).Pairwise (fun c d => c.1 < d.1) := by
  induction m with
  | nil => exact Memory.sorted_put hm (by simp)
  | cons d rest ih =>
    obtain ⟨hd, hr⟩ := List.pairwise_cons.mp hm
    rw [show Memory.write (d :: rest) a b = if a < d.1 then Memory.put (d :: rest) a b
      else if a = d.1 then Memory.put rest a b else d :: Memory.write rest a b from rfl]
    split
    case isTrue hlt =>
      refine Memory.sorted_put hm (fun c hc => ?_)
      cases List.mem_cons.mp hc with
      | inl e => exact e ▸ hlt
      | inr hc => exact Nat.lt_trans hlt (hd c hc)
    case isFalse hge =>
      split
      case isTrue heq => exact Memory.sorted_put hr (fun c hc => heq ▸ hd c hc)
      case isFalse hne =>
        refine List.pairwise_cons.mpr ⟨fun c hc => ?_, ih hr⟩
        cases Memory.mem_write hc with
        | inl e => rw [e.1]; show d.1 < a; omega
        | inr hc => exact hd c hc

/-- EVERY memory write keeps the canonical form. -/
theorem Memory.wf_write {m : Memory} {a : Nat} (b : Byte) (hm : m.wf) (ha : a < memSize) : (m.write a b).wf :=
  ⟨Memory.sorted_write a b hm.1, fun c hc => by
    cases Memory.mem_write hc with
    | inl e => rw [e.1]; exact ⟨ha, e.2⟩
    | inr h => exact hm.2 c h⟩

/-- A read after a write: the byte written at its address, what was there before at every other. -/
theorem Memory.read_write {m : Memory} (hm : m.Pairwise (fun c d => c.1 < d.1)) (a : Nat) (b : Byte) (a' : Nat) :
    (m.write a b).read a' = if a' = a then b else m.read a' := by
  induction m with
  | nil => exact Memory.read_put [] a b a' (by simp)
  | cons d rest ih =>
    obtain ⟨hd, hr⟩ := List.pairwise_cons.mp hm
    rw [show Memory.write (d :: rest) a b = if a < d.1 then Memory.put (d :: rest) a b
      else if a = d.1 then Memory.put rest a b else d :: Memory.write rest a b from rfl]
    split
    case isTrue hlt =>
      refine Memory.read_put _ a b a' (fun c hc => ?_)
      cases List.mem_cons.mp hc with
      | inl e => rw [e]; omega
      | inr hc => have := hd c hc; omega
    case isFalse hge =>
      split
      case isTrue heq =>
        rw [Memory.read_put rest a b a' (fun c hc => by have := hd c hc; omega), Memory.read_cons]
        split <;> simp_all
      case isFalse hne =>
        rw [Memory.read_cons, ih hr, Memory.read_cons]
        split <;> split <;> simp_all

/-- Writing back the byte an address reads as changes nothing, in the canonical form. -/
theorem Memory.write_read_self {m : Memory} (hm : m.wf) (a : Nat) : m.write a (m.read a) = m := by
  obtain ⟨hs, hv⟩ := hm
  induction m with
  | nil => rfl
  | cons d rest ih =>
    obtain ⟨hd, hr⟩ := List.pairwise_cons.mp hs
    have hv' : ∀ c ∈ rest, c.1 < memSize ∧ c.2 ≠ Memory.unlisted := fun c hc => hv c (List.mem_cons_of_mem _ hc)
    rw [show Memory.write (d :: rest) a (Memory.read (d :: rest) a) =
      if a < d.1 then Memory.put (d :: rest) a (Memory.read (d :: rest) a)
      else if a = d.1 then Memory.put rest a (Memory.read (d :: rest) a)
      else d :: Memory.write rest a (Memory.read (d :: rest) a) from rfl]
    split
    case isTrue hlt =>
      rw [Memory.read_eq_unlisted (m := d :: rest) (a := a) (fun c hc => by
        cases List.mem_cons.mp hc with
        | inl e => rw [e]; omega
        | inr hc => have := hd c hc; omega)]
      rfl
    case isFalse hge =>
      split
      case isTrue heq =>
        rw [Memory.read_cons, if_pos heq, Memory.put, if_neg (hv d (List.mem_cons_self ..)).2, heq]
      case isFalse hne => rw [Memory.read_cons, if_neg hne, ih hr hv']

/-- The empty memory, that of reset, has the form. -/
theorem Memory.wf_nil : Memory.wf [] := ⟨List.Pairwise.nil, by simp⟩

theorem dataAddr_lt (a : Nat) : dataAddr a < memSize := Nat.mod_lt _ (by decide)

/-- An address of the space is its own reduction. -/
theorem dataAddr_of_lt {a : Nat} (h : a < memSize) : dataAddr a = a := Nat.mod_eq_of_lt h

/-- The state's memory write keeps the canonical form, at every integer address. -/
theorem State.memWrite_wf {s : State} (a : Nat) (b : Byte) (h : s.mem.wf) : (s.memWrite a b).mem.wf :=
  Memory.wf_write b h (dataAddr_lt a)

/-- A read through the state after a write: addresses agree when their 12-bit reductions do. -/
theorem State.memRead_memWrite {s : State} (h : s.mem.wf) (a a' : Nat) (b : Byte) :
    (s.memWrite a b).memRead a' = if dataAddr a' = dataAddr a then b else s.memRead a' :=
  Memory.read_write h.1 (dataAddr a) b (dataAddr a')

/-- A run of byte writes keeps the canonical form. -/
theorem State.writeBytes_wf {s : State} (a : Nat) (bytes : List Byte) (h : s.mem.wf) :
    (s.writeBytes a bytes).mem.wf := by
  induction bytes generalizing s a with
  | nil => exact h
  | cons b rest ih => exact ih (a + 1) (State.memWrite_wf a b h)

end Sys2Proof.Machine
end

