-- ==== Sys2Proof/Laws/Ops.lean ====
section
/-! SUPPORT. What each shared operation can do, said once: the register file, the framebuffer, the fetch, the call stack, taking a
fatal status, the flag and result write, the loops of the memory transfers, the key-wait's choice, and the cases of a `cycle()`. -/

namespace Sys2Proof.Machine

/-! ## Registers -/

@[simp] theorem State.reg_setReg (s : State) (x y : Reg) (b : Byte) :
    (s.setReg x b).reg y = if y = x then b else s.reg y := by
  simp only [State.reg, State.setReg_v, Vector.getElem_set, Fin.ext_iff, eq_comm]

theorem State.reg_setReg_self (s : State) (x : Reg) (b : Byte) : (s.setReg x b).reg x = b := by simp

theorem State.reg_setReg_ne (s : State) {x y : Reg} (b : Byte) (h : y ≠ x) : (s.setReg x b).reg y = s.reg y := by simp [h]

/-- `reg` reads the field `v` and nothing else. -/
theorem State.reg_congr {s t : State} (h : t.v = s.v) (x : Reg) : t.reg x = s.reg x := by unfold State.reg; rw [h]

/-- `memRead` reads the field `mem` and nothing else. -/
theorem State.memRead_congr {s t : State} (h : t.mem = s.mem) (a : Nat) : t.memRead a = s.memRead a := by
  unfold State.memRead; rw [h]

/-! ## The framebuffer -/

@[simp] theorem FrameBuffer.pixel_setPixel (f : FrameBuffer) (c c' : Fin 64) (r r' : Fin 32) (b : Bool) :
    (f.setPixel c r b).pixel c' r' = if c' = c ∧ r' = r then b else f.pixel c' r' := by
  unfold FrameBuffer.pixel FrameBuffer.setPixel
  by_cases hc : c' = c
  · subst hc
    simp [Vector.getElem_set, Fin.ext_iff, eq_comm]
  · have : c.val ≠ c'.val := fun e => hc (Fin.ext e.symm)
    simp [this, hc]

@[simp] theorem FrameBuffer.pixel_blank (c : Fin 64) (r : Fin 32) : FrameBuffer.blank.pixel c r = false := by
  simp [FrameBuffer.pixel, FrameBuffer.blank]

/-! ## The fetch -/

/-- A fetch that succeeds: `pc` is in bounds, and the word is the two bytes there. -/
theorem State.fetch_ok {s : State} {w : Word} (h : s.fetch = .ok w) :
    s.pc ≤ lastFetch ∧ w = wordOfBytes (s.memRead s.pc.toNat) (s.memRead (s.pc.toNat + 1)) := by
  unfold State.fetch at h
  split at h
  · cases h
  · cases h
    exact ⟨BitVec.not_lt.mp ‹_›, rfl⟩

/-- A fetch that fails: `pc` is out of bounds, and the status says so. -/
theorem State.fetch_error {s : State} {f : FatalStatus} (h : s.fetch = .error f) :
    s.pc > lastFetch ∧ f = .outOfBounds := by
  unfold State.fetch at h
  split at h
  · cases h
    exact ⟨‹_›, rfl⟩
  · cases h

/-! ## The call stack -/

theorem State.push_ok {s t : State} {a : Word} (h : s.push a = .ok t) :
    ∃ hd : s.sp.val < 16, t = s.setStack (s.stack.set s.sp.val a) ⟨s.sp.val + 1, by omega⟩ := by
  unfold State.push at h
  split at h
  · cases h
    exact ⟨‹_›, rfl⟩
  · cases h

theorem State.push_error {s : State} {a : Word} {f : FatalStatus} (h : s.push a = .error f) :
    s.sp.val = 16 ∧ f = .stackOverflow := by
  unfold State.push at h
  split at h
  · cases h
  · cases h
    exact ⟨by have := s.sp.isLt; omega, rfl⟩

theorem State.pop_ok {s : State} {r : Word × State} (h : s.pop = .ok r) :
    ∃ hd : 0 < s.sp.val, r.1 = s.stack[s.sp.val - 1]'(by omega) ∧ r.2 = s.setStack s.stack ⟨s.sp.val - 1, by omega⟩ := by
  unfold State.pop at h
  split at h
  · cases h
    exact ⟨‹_›, rfl, rfl⟩
  · cases h

theorem State.pop_error {s : State} {f : FatalStatus} (h : s.pop = .error f) :
    s.sp.val = 0 ∧ f = .stackUnderflow := by
  unfold State.pop at h
  split at h
  · cases h
  · cases h
    exact ⟨by omega, rfl⟩

/-! ## Taking a fatal status -/

/-- A handler that ends in `orRaise` either completes or halts, and the halt changes only the mode. -/
theorem orRaise_next {s t : State} {r : Except FatalStatus State} (h : orRaise s r = .next t) :
    r = .ok t ∨ ∃ f, r = .error f ∧ t = s.setMode (.halted f) := by
  unfold orRaise at h
  split at h
  · cases h; exact .inl rfl
  · cases h; exact .inr ⟨_, rfl, rfl⟩

/-! ## Operands and flags -/

theorem State.keyIndex_ok {s : State} {b : Byte} {k : Key} (h : s.keyIndex b = .ok k) : k.val = b.toNat := by
  unfold State.keyIndex at h
  split at h
  · cases h; rfl
  · cases h

theorem State.keyIndex_error {s : State} {b : Byte} {f : FatalStatus} (h : s.keyIndex b = .error f) :
    b.toNat > 15 ∧ f = .keyIndexOutOfRange b s.pc := by
  unfold State.keyIndex at h
  split at h
  · cases h
  · cases h
    exact ⟨by omega, rfl⟩

/-- The flag and result write, register by register, under either order. -/
theorem State.reg_writeFlagResult (s : State) (x y : Reg) (flag result : Byte) :
    (s.writeFlagResult x flag result).reg y =
      if y = x ∧ y = vf then (if s.params.vfOrder = .resultLast then result else flag)
      else if y = x then result else if y = vf then flag else s.reg y := by
  unfold State.writeFlagResult
  cases s.params.vfOrder <;> by_cases h1 : y = x <;> by_cases h2 : y = vf <;> simp_all

/-- The flag and result write changes the register file only. -/
theorem State.writeFlagResult_eq_setV (s : State) (x : Reg) (flag result : Byte) :
    ∃ v, s.writeFlagResult x flag result = s.setV v := by
  unfold State.writeFlagResult
  cases s.params.vfOrder <;> exact ⟨_, rfl⟩

/-! ## The loops of the memory transfers -/

/-- Storing registers changes memory only. -/
theorem State.storeFirst_eq_setMem (s : State) (k : Nat) : ∃ m, s.storeFirst k = s.setMem m := by
  induction k with
  | zero => exact ⟨s.mem, rfl⟩
  | succ k ih =>
    obtain ⟨m, hm⟩ := ih
    exact ⟨m.write (dataAddr ((s.setMem m).indexAddr k)) (s.reg (Fin.ofNat 16 k)), by
      show (s.storeFirst k).writeIndexed k _ = _
      rw [hm]; rfl⟩

theorem State.storeFirst_wf {s : State} (k : Nat) (h : s.mem.wf) : (s.storeFirst k).mem.wf := by
  induction k with
  | zero => exact h
  | succ k ih => exact State.memWrite_wf _ _ ih

/-- Loading registers changes the register file only. -/
theorem State.loadFirst_eq_setV (s : State) (k : Nat) : ∃ v, s.loadFirst k = s.setV v := by
  induction k with
  | zero => exact ⟨s.v, rfl⟩
  | succ k ih =>
    obtain ⟨v, hv⟩ := ih
    exact ⟨v.set (Fin.ofNat 16 k).val (s.readIndexed k) (Fin.ofNat 16 k).isLt, by
      show (s.loadFirst k).setReg _ _ = _
      rw [hv]; rfl⟩

/-- A run of byte writes changes memory only. -/
theorem State.writeBytes_eq_setMem (s : State) (a : Nat) (bytes : List Byte) : ∃ m, s.writeBytes a bytes = s.setMem m := by
  induction bytes generalizing s a with
  | nil => exact ⟨s.mem, rfl⟩
  | cons b rest ih =>
    obtain ⟨m, hm⟩ := ih (s.memWrite a b) (a + 1)
    exact ⟨m, hm⟩

/-! ## The key-wait -/

theorem foldl_min_mem (k : Key) (ks : List Key) : ks.foldl min k ∈ k :: ks := by
  induction ks generalizing k with
  | nil => exact List.mem_cons_self ..
  | cons j rest ih =>
    have h := ih (min k j)
    rw [List.foldl_cons]
    rcases List.mem_cons.mp h with e | e
    · rw [e]
      rcases min_choice k j with m | m <;> rw [m] <;> simp
    · exact List.mem_cons_of_mem _ (List.mem_cons_of_mem _ e)

/-- The key picked is one of those that qualify. -/
theorem pickKey_mem (k : Key) (ks : List Key) (kd : Key) : pickKey k ks kd ∈ k :: ks := by
  unfold pickKey
  split
  · assumption
  · exact foldl_min_mem k ks

theorem foldl_min_le (k : Key) (ks : List Key) : ∀ j ∈ k :: ks, ks.foldl min k ≤ j := by
  induction ks generalizing k with
  | nil => intro j hj; rw [List.mem_singleton.mp hj]; exact le_refl _
  | cons a rest ih =>
    intro j hj
    rw [List.foldl_cons]
    rcases List.mem_cons.mp hj with rfl | hj
    · exact le_trans (ih _ _ (List.mem_cons_self ..)) (min_le_left _ _)
    · rcases List.mem_cons.mp hj with rfl | hj
      · exact le_trans (ih _ _ (List.mem_cons_self ..)) (min_le_right _ _)
      · exact ih _ _ (List.mem_cons_of_mem _ hj)

/-- The key picked is the drawn one where that qualifies, else the least that does. -/
theorem pickKey_spec (k : Key) (ks : List Key) (kd : Key) :
    (kd ∈ k :: ks → pickKey k ks kd = kd) ∧ (kd ∉ k :: ks → ∀ j ∈ k :: ks, pickKey k ks kd ≤ j) :=
  ⟨fun h => if_pos h, fun h j hj => by simp only [pickKey]; rw [if_neg h]; exact foldl_min_le k ks j hj⟩

/-- What a poll can do: nothing qualifies and only `KW_PREV` changes, or a qualifying key is captured and the wait ends. -/
theorem State.pollWith_cases (s : State) (kd : Key) :
    (s.qualifying = [] ∧ s.pollWith kd = s.setKeyWait s.kwReg s.keys) ∨
    ∃ k ∈ s.qualifying, s.pollWith kd = ((s.captureKey s.kwReg k).setMode .run).useDraw := by
  unfold State.pollWith
  split
  · exact .inl ⟨‹_›, rfl⟩
  · rename_i k ks h
    exact .inr ⟨pickKey k ks kd, h ▸ pickKey_mem k ks kd, rfl⟩

/-! ## The cycle -/

/-- What a `cycle()` can do, mode by mode. -/
theorem State.cycle_cases (s : State) :
    (∃ f, s.mode = .halted f ∧ s.cycle = .next s) ∨
    (s.mode = .awaitKey ∧ s.cycle = .next s.keyWaitPoll) ∨
    (s.mode = .run ∧ s.pc > lastFetch ∧ s.cycle = raise .outOfBounds s) ∨
    (∃ w r, s.mode = .run ∧ s.fetch = .ok w ∧ decodeWord w = .error r ∧ s.cycle = raise (.unknownOpcode w s.pc) s) ∨
    (∃ w i, s.mode = .run ∧ s.fetch = .ok w ∧ decodeWord w = .ok i ∧ s.cycle = exec i s) := by
  unfold State.cycle
  cases hm : s.mode with
  | halted f => exact .inl ⟨f, rfl, rfl⟩
  | awaitKey => exact .inr (.inl ⟨rfl, rfl⟩)
  | run =>
    refine .inr (.inr ?_)
    show (_ ∧ _ ∧ s.runCycle = _) ∨ (∃ w r, _ ∧ _ ∧ _ ∧ s.runCycle = _) ∨ (∃ w i, _ ∧ _ ∧ _ ∧ s.runCycle = _)
    unfold State.runCycle
    cases hf : s.fetch with
    | error f =>
      obtain ⟨hp, rfl⟩ := State.fetch_error hf
      exact .inl ⟨rfl, hp, rfl⟩
    | ok w =>
      refine .inr ?_
      cases hd : decodeWord w with
      | error r => exact .inl ⟨w, r, rfl, rfl, hd, by simp [hd]⟩
      | ok i => exact .inr ⟨w, i, rfl, rfl, hd, by simp [hd]⟩

end Sys2Proof.Machine
end

