-- ==== Sys2Proof/Laws/Compositor.lean ====
section
/-! SUPPORT. The XOR compositor, cell by cell (spec/40_display.md R111): which cell of the sprite falls on a screen cell, and what the loops
over columns and rows do to the framebuffer and to the collision. -/

namespace Sys2Proof.Machine

/-- The sprite column that falls on screen column c, counted from `vx mod 64` with wrap. -/
def spriteColumnAt (vx : Byte) (c : Fin 64) : Nat := (c.val + 64 - vx.toNat % 64) % 64

/-- The sprite row that falls on screen row q, counted from `vy mod 32` with wrap. -/
def spriteRowAt (vy : Byte) (q : Fin 32) : Nat := (q.val + 32 - vy.toNat % 32) % 32

theorem eq_screenColumn (vx : Byte) {k : Nat} (hk : k < 64) (c : Fin 64) :
    c = screenColumn vx k ↔ spriteColumnAt vx c = k := by
  have := c.isLt
  simp only [screenColumn, spriteColumnAt, Fin.ext_iff]; omega

theorem eq_screenRow (vy : Byte) {k : Nat} (hk : k < 32) (q : Fin 32) : q = screenRow vy k ↔ spriteRowAt vy q = k := by
  have := q.isLt
  simp only [screenRow, spriteRowAt, Fin.ext_iff]; omega

/-- The first k columns of one sprite row: each cell is XORed with the bit that falls on it. -/
theorem pixel_xorColumns (vx vy : Byte) {r : Nat} (hr : r < 32) (b : Byte) {k : Nat} (hk : k ≤ 8) (acc : FrameBuffer × Bool)
    (c : Fin 64) (q : Fin 32) :
    (xorColumns vx vy r b k acc).1.pixel c q = xor (acc.1.pixel c q)
      (decide (spriteColumnAt vx c < k) && decide (spriteRowAt vy q = r) && b.getLsbD (7 - spriteColumnAt vx c)) := by
  induction k generalizing c q with
  | zero => simp [xorColumns]
  | succ k ih =>
    have ih := ih (by omega)
    simp only [xorColumns, xorCell]
    rw [FrameBuffer.pixel_setPixel]
    split
    case isTrue h =>
      obtain ⟨e1, e2⟩ := h
      have h1 : spriteColumnAt vx c = k := (eq_screenColumn vx (by omega) c).1 e1
      have h2 : spriteRowAt vy q = r := (eq_screenRow vy hr q).1 e2
      rw [← e1, ← e2, ih]; simp [h1, h2, spriteBit]
    case isFalse h' =>
      rw [ih]
      by_cases a : spriteRowAt vy q = r
      · have hne : spriteColumnAt vx c ≠ k := fun e =>
          h' ⟨(eq_screenColumn vx (by omega) c).2 e, (eq_screenRow vy hr q).2 a⟩
        have e : spriteColumnAt vx c < k ↔ spriteColumnAt vx c < k + 1 := by omega
        simp [e]
      · simp [a]

/-- The collision after the first k columns: the one before, or a set bit on a set cell. -/
theorem collision_xorColumns (vx vy : Byte) {r : Nat} (hr : r < 32) (b : Byte) {k : Nat} (hk : k ≤ 8)
    (acc : FrameBuffer × Bool) :
    (xorColumns vx vy r b k acc).2 = true ↔ acc.2 = true ∨ ∃ c q, spriteColumnAt vx c < k ∧ spriteRowAt vy q = r ∧
      b.getLsbD (7 - spriteColumnAt vx c) = true ∧ acc.1.pixel c q = true := by
  induction k with
  | zero => simp [xorColumns]
  | succ k ih =>
    have ih := ih (by omega)
    have hc := (eq_screenColumn vx (by omega) (screenColumn vx k)).1 rfl
    have hq := (eq_screenRow vy hr (screenRow vy r)).1 rfl
    have hp : (xorColumns vx vy r b k acc).1.pixel (screenColumn vx k) (screenRow vy r) =
        acc.1.pixel (screenColumn vx k) (screenRow vy r) := by
      rw [pixel_xorColumns vx vy hr b (by omega), hc]; simp
    simp only [xorColumns, xorCell]
    rw [Bool.or_eq_true, ih, Bool.and_eq_true, hp]
    constructor
    · rintro ((h | ⟨c, q, h1, h2, h3, h4⟩) | ⟨h1, h2⟩)
      · exact .inl h
      · exact .inr ⟨c, q, by omega, h2, h3, h4⟩
      · exact .inr ⟨_, _, by omega, hq, by rw [hc]; exact h1, h2⟩
    · rintro (h | ⟨c, q, h1, h2, h3, h4⟩)
      · exact .inl (.inl h)
      · by_cases e : spriteColumnAt vx c = k
        · right
          rw [← (eq_screenColumn vx (by omega) c).2 e, ← (eq_screenRow vy hr q).2 h2]
          exact ⟨by rw [← e]; exact h3, h4⟩
        · exact .inl (.inr ⟨c, q, by omega, h2, h3, h4⟩)

/-- The first n rows of the sprite: each cell is XORed with the bit that falls on it. -/
theorem pixel_xorRows (s : State) (vx vy : Byte) {n : Nat} (hn : n ≤ 32) (acc : FrameBuffer × Bool) (c : Fin 64) (q : Fin 32) :
    (xorRows s vx vy n acc).1.pixel c q = xor (acc.1.pixel c q)
      (decide (spriteColumnAt vx c < 8) && decide (spriteRowAt vy q < n) &&
        (s.memRead (s.i.toNat + spriteRowAt vy q)).getLsbD (7 - spriteColumnAt vx c)) := by
  induction n with
  | zero => simp [xorRows]
  | succ n ih =>
    simp only [xorRows]
    rw [pixel_xorColumns vx vy (by omega) _ (by omega), ih (by omega)]
    by_cases a : spriteRowAt vy q = n
    · simp [a, State.readIndexed, State.indexAddr]
    · have e : spriteRowAt vy q < n ↔ spriteRowAt vy q < n + 1 := by omega
      simp [a, e]

/-- The collision after the first n rows: the one before, or a set bit on a set cell. -/
theorem collision_xorRows (s : State) (vx vy : Byte) {n : Nat} (hn : n ≤ 32) (acc : FrameBuffer × Bool) :
    (xorRows s vx vy n acc).2 = true ↔ acc.2 = true ∨ ∃ c q, spriteColumnAt vx c < 8 ∧ spriteRowAt vy q < n ∧
      (s.memRead (s.i.toNat + spriteRowAt vy q)).getLsbD (7 - spriteColumnAt vx c) = true ∧ acc.1.pixel c q = true := by
  induction n with
  | zero => simp [xorRows]
  | succ n ih =>
    simp only [xorRows]
    rw [collision_xorColumns vx vy (by omega) _ (by omega), ih (by omega)]
    constructor
    · rintro ((h | ⟨c, q, h1, h2, h3, h4⟩) | ⟨c, q, h1, h2, h3, h4⟩)
      · exact .inl h
      · exact .inr ⟨c, q, h1, by omega, h3, h4⟩
      · rw [pixel_xorRows s vx vy (by omega)] at h4
        exact .inr ⟨c, q, h1, by omega, by rw [h2]; exact h3, by simpa [h2] using h4⟩
    · rintro (h | ⟨c, q, h1, h2, h3, h4⟩)
      · exact .inl (.inl h)
      · by_cases e : spriteRowAt vy q = n
        · right
          refine ⟨c, q, h1, e, by rw [← e]; exact h3, ?_⟩
          rw [pixel_xorRows s vx vy (by omega)]; simpa [e] using h4
        · exact .inl (.inr ⟨c, q, h1, by omega, h3, h4⟩)

end Sys2Proof.Machine
end

