-- ==== Sys2Proof/Laws/Decode.lean ====
section
/-! SUPPORT. The fields of a word laid out in each format (spec/30_encoding.md R81, R82), and the two bytes of a word. -/

namespace Sys2Proof

/-- A field of the low part of a concatenation. -/
theorem extract_low {v w : Nat} (a : BitVec v) (b : BitVec w) (start len : Nat) (h : start + len ≤ w) :
    (a ++ b).extractLsb' start len = b.extractLsb' start len := BitVec.extractLsb'_append_eq_of_add_le h

/-- A field of the high part of a concatenation. -/
theorem extract_high {v w : Nat} (a : BitVec v) (b : BitVec w) (start len : Nat) (h : w ≤ start) :
    (a ++ b).extractLsb' start len = a.extractLsb' (start - w) len := BitVec.extractLsb'_append_eq_of_le h

/-- A register number survives its four bits. -/
theorem reg_ofNat_toNat (x : Reg) : (⟨(BitVec.ofNat 4 x.val).toNat, (BitVec.ofNat 4 x.val).isLt⟩ : Reg) = x :=
  Fin.ext (Nat.mod_eq_of_lt x.isLt)

/-! ## Format NNN -/

theorem majorField_formatNnn (n1 : BitVec 4) (nnn : Addr12) : majorField (formatNnn n1 nnn) = n1 := by
  unfold majorField formatNnn
  rw [extract_high _ _ _ _ (by decide)]
  exact BitVec.extractLsb'_eq_self

theorem nnnField_formatNnn (n1 : BitVec 4) (nnn : Addr12) : nnnField (formatNnn n1 nnn) = nnn := by
  unfold nnnField formatNnn
  rw [extract_low _ _ _ _ (by decide)]
  exact BitVec.extractLsb'_eq_self

/-! ## Formats XKK and XFN -/

theorem majorField_formatXkk (n1 : BitVec 4) (x : Reg) (kk : Byte) : majorField (formatXkk n1 x kk) = n1 := by
  unfold majorField formatXkk
  rw [extract_high _ _ _ _ (by decide), extract_high _ _ _ _ (by decide)]
  exact BitVec.extractLsb'_eq_self

theorem xField_formatXkk (n1 : BitVec 4) (x : Reg) (kk : Byte) : xField (formatXkk n1 x kk) = x := by
  have h : (formatXkk n1 x kk).extractLsb' 8 4 = BitVec.ofNat 4 x.val := by
    unfold formatXkk
    rw [extract_high _ _ _ _ (by decide), extract_low _ _ _ _ (by decide)]
    exact BitVec.extractLsb'_eq_self
  unfold xField
  simp only [h]
  exact reg_ofNat_toNat x

theorem kkField_formatXkk (n1 : BitVec 4) (x : Reg) (kk : Byte) : kkField (formatXkk n1 x kk) = kk := by
  unfold kkField formatXkk
  rw [extract_low _ _ _ _ (by decide)]
  exact BitVec.extractLsb'_eq_self

/-! ## Format XYN -/

theorem majorField_formatXyn (n1 : BitVec 4) (x y : Reg) (n : BitVec 4) :
    majorField (formatXyn n1 x y n) = n1 := by
  unfold majorField formatXyn
  rw [extract_high _ _ _ _ (by decide), extract_high _ _ _ _ (by decide), extract_high _ _ _ _ (by decide)]
  exact BitVec.extractLsb'_eq_self

theorem xField_formatXyn (n1 : BitVec 4) (x y : Reg) (n : BitVec 4) : xField (formatXyn n1 x y n) = x := by
  have h : (formatXyn n1 x y n).extractLsb' 8 4 = BitVec.ofNat 4 x.val := by
    unfold formatXyn
    rw [extract_high _ _ _ _ (by decide), extract_high _ _ _ _ (by decide), extract_low _ _ _ _ (by decide)]
    exact BitVec.extractLsb'_eq_self
  unfold xField
  simp only [h]
  exact reg_ofNat_toNat x

theorem yField_formatXyn (n1 : BitVec 4) (x y : Reg) (n : BitVec 4) : yField (formatXyn n1 x y n) = y := by
  have h : (formatXyn n1 x y n).extractLsb' 4 4 = BitVec.ofNat 4 y.val := by
    unfold formatXyn
    rw [extract_high _ _ _ _ (by decide), extract_low _ _ _ _ (by decide)]
    exact BitVec.extractLsb'_eq_self
  unfold yField
  simp only [h]
  exact reg_ofNat_toNat y

theorem nField_formatXyn (n1 : BitVec 4) (x y : Reg) (n : BitVec 4) : nField (formatXyn n1 x y n) = n := by
  unfold nField formatXyn
  rw [extract_low _ _ _ _ (by decide)]
  exact BitVec.extractLsb'_eq_self

/-! ## Bytes -/

theorem highByte_wordOfBytes (hi lo : Byte) : highByte (wordOfBytes hi lo) = hi := by
  unfold highByte wordOfBytes
  rw [extract_high _ _ _ _ (by decide)]
  exact BitVec.extractLsb'_eq_self

theorem lowByte_wordOfBytes (hi lo : Byte) : lowByte (wordOfBytes hi lo) = lo := by
  unfold lowByte wordOfBytes
  rw [extract_low _ _ _ _ (by decide)]
  exact BitVec.extractLsb'_eq_self

/-- A word is its two bytes. -/
theorem wordOfBytes_bytes (w : Word) : wordOfBytes (highByte w) (lowByte w) = w := by
  unfold wordOfBytes highByte lowByte
  ext k hk
  rw [BitVec.getElem_append]
  split
  · simp [BitVec.getElem_extractLsb', BitVec.getLsbD_eq_getElem hk]
  · rw [BitVec.getElem_extractLsb', show 8 + (k - 8) = k by omega, BitVec.getLsbD_eq_getElem hk]

/-! ## A word is its fields, in each format -/

theorem join_fields (w : Word) (hi lo : Nat) (h : hi + lo = 16) :
    ((w.extractLsb' lo hi) ++ (w.extractLsb' 0 lo)).cast h = w := by
  ext k hk
  rw [BitVec.getElem_cast, BitVec.getElem_append]
  split
  · simp [BitVec.getElem_extractLsb', BitVec.getLsbD_eq_getElem hk]
  · rw [BitVec.getElem_extractLsb', show lo + (k - lo) = k by omega, BitVec.getLsbD_eq_getElem hk]

theorem formatNnn_fields (w : Word) : formatNnn (majorField w) (nnnField w) = w := join_fields w 4 12 rfl

theorem formatXkk_fields (w : Word) : formatXkk (majorField w) (xField w) (kkField w) = w := by
  have h : majorField w ++ BitVec.ofNat 4 (xField w).val = w.extractLsb' 8 8 := by
    simp only [xField, BitVec.ofNat_toNat, BitVec.setWidth_eq, majorField]
    ext k hk
    rw [BitVec.getElem_append]
    split
    · simp [BitVec.getElem_extractLsb']
    · rw [BitVec.getElem_extractLsb', BitVec.getElem_extractLsb', show 12 + (k - 4) = 8 + k by omega]
  unfold formatXkk
  rw [h]
  exact join_fields w 8 8 rfl

theorem formatXyn_fields (w : Word) : formatXyn (majorField w) (xField w) (yField w) (nField w) = w := by
  have h : BitVec.ofNat 4 (yField w).val ++ nField w = kkField w := by
    simp only [yField, BitVec.ofNat_toNat, BitVec.setWidth_eq, nField, kkField]
    ext k hk
    rw [BitVec.getElem_append]
    split
    · simp [BitVec.getElem_extractLsb']
    · rw [BitVec.getElem_extractLsb', BitVec.getElem_extractLsb', show 4 + (k - 4) = 0 + k by omega]
  have hk := formatXkk_fields w
  unfold formatXkk at hk
  rw [← h] at hk
  exact (BitVec.append_assoc ..).trans hk

/-! ## The decoder, major opcode by major opcode -/

/-- The sixteen values of a nibble. -/
theorem nibble_cases (n : BitVec 4) : n = 0x0#4 ∨ n = 0x1#4 ∨ n = 0x2#4 ∨ n = 0x3#4 ∨ n = 0x4#4 ∨ n = 0x5#4 ∨ n = 0x6#4 ∨ n = 0x7#4 ∨ n = 0x8#4 ∨ n = 0x9#4 ∨ n = 0xA#4 ∨ n = 0xB#4 ∨ n = 0xC#4 ∨ n = 0xD#4 ∨ n = 0xE#4 ∨ n = 0xF#4 := by
  revert n; decide

theorem decodeWord_major0 {w : Word} (h : majorField w = 0x0#4) : decodeWord w = decodeFixed w := by
  simp [decodeWord, h]

theorem decodeWord_major1 {w : Word} (h : majorField w = 0x1#4) : decodeWord w = .ok (.jp (nnnField w)) := by
  simp [decodeWord, h]

theorem decodeWord_major2 {w : Word} (h : majorField w = 0x2#4) : decodeWord w = .ok (.call (nnnField w)) := by
  simp [decodeWord, h]

theorem decodeWord_major3 {w : Word} (h : majorField w = 0x3#4) : decodeWord w = .ok (.seByte (xField w) (kkField w)) := by
  simp [decodeWord, h]

theorem decodeWord_major4 {w : Word} (h : majorField w = 0x4#4) : decodeWord w = .ok (.sneByte (xField w) (kkField w)) := by
  simp [decodeWord, h]

theorem decodeWord_major5 {w : Word} (h : majorField w = 0x5#4) : decodeWord w = decodeNibbleZero w (.seReg (xField w) (yField w)) := by
  simp [decodeWord, h]

theorem decodeWord_major6 {w : Word} (h : majorField w = 0x6#4) : decodeWord w = .ok (.ldByte (xField w) (kkField w)) := by
  simp [decodeWord, h]

theorem decodeWord_major7 {w : Word} (h : majorField w = 0x7#4) : decodeWord w = .ok (.addByte (xField w) (kkField w)) := by
  simp [decodeWord, h]

theorem decodeWord_major8 {w : Word} (h : majorField w = 0x8#4) : decodeWord w = decodeAlu w := by
  simp [decodeWord, h]

theorem decodeWord_major9 {w : Word} (h : majorField w = 0x9#4) : decodeWord w = decodeNibbleZero w (.sneReg (xField w) (yField w)) := by
  simp [decodeWord, h]

theorem decodeWord_majorA {w : Word} (h : majorField w = 0xA#4) : decodeWord w = .ok (.ldI (nnnField w)) := by
  simp [decodeWord, h]

theorem decodeWord_majorB {w : Word} (h : majorField w = 0xB#4) : decodeWord w = .ok (.jpV0 (nnnField w)) := by
  simp [decodeWord, h]

theorem decodeWord_majorC {w : Word} (h : majorField w = 0xC#4) : decodeWord w = .ok (.rnd (xField w) (kkField w)) := by
  simp [decodeWord, h]

theorem decodeWord_majorD {w : Word} (h : majorField w = 0xD#4) : decodeWord w = .ok (.drw (xField w) (yField w) (nField w).toNat) := by
  simp [decodeWord, h]

theorem decodeWord_majorE {w : Word} (h : majorField w = 0xE#4) : decodeWord w = decodeKeySkip w := by
  simp [decodeWord, h]

theorem decodeWord_majorF {w : Word} (h : majorField w = 0xF#4) : decodeWord w = decodeMisc w := by
  simp [decodeWord, h]

/-! ## The fields as integers -/

theorem majorField_toNat (w : Word) : (majorField w).toNat = w.toNat / 4096 := by
  have := w.isLt
  simp only [majorField, BitVec.extractLsb'_toNat, Nat.shiftRight_eq_div_pow]
  omega

theorem xField_val (w : Word) : (xField w).val = w.toNat / 256 % 16 := by
  simp only [xField, BitVec.extractLsb'_toNat, Nat.shiftRight_eq_div_pow]

theorem yField_val (w : Word) : (yField w).val = w.toNat / 16 % 16 := by
  simp only [yField, BitVec.extractLsb'_toNat, Nat.shiftRight_eq_div_pow]

theorem nField_toNat (w : Word) : (nField w).toNat = w.toNat % 16 := by
  simp only [nField, BitVec.extractLsb'_toNat, Nat.shiftRight_zero]

theorem kkField_toNat (w : Word) : (kkField w).toNat = w.toNat % 256 := by
  simp only [kkField, BitVec.extractLsb'_toNat, Nat.shiftRight_zero]

theorem nnnField_toNat (w : Word) : (nnnField w).toNat = w.toNat % 4096 := by
  simp only [nnnField, BitVec.extractLsb'_toNat, Nat.shiftRight_zero]

/-! ## A rejection names the word -/

theorem decodeNibbleZero_error {w : Word} {i : Instr} {r : Reject} (h : decodeNibbleZero w i = .error r) :
    r = .unknownOpcode w := by
  unfold decodeNibbleZero at h
  split at h <;> cases h
  rfl

/-- Whatever the word, a rejection is `UnknownOpcode` of that word (spec/30_encoding.md R88, R89). -/
theorem decodeWord_error {w : Word} {r : Reject} (h : decodeWord w = .error r) : r = .unknownOpcode w := by
  have alu : decodeAlu w = .error r → r = .unknownOpcode w := by
    unfold decodeAlu
    rcases nibble_cases (nField w) with e | e | e | e | e | e | e | e | e | e | e | e | e | e | e | e <;> simp [e, eq_comm]
  have fixed : decodeFixed w = .error r → r = .unknownOpcode w := by
    unfold decodeFixed
    split
    · simp
    · split <;> simp [eq_comm]
  have keySkip : decodeKeySkip w = .error r → r = .unknownOpcode w := by
    unfold decodeKeySkip
    split
    · simp
    · split <;> simp [eq_comm]
  have misc : decodeMisc w = .error r → r = .unknownOpcode w := by
    simp only [decodeMisc]
    iterate 9
      split
      · simp
    simp [eq_comm]
  rcases nibble_cases (majorField w) with e | e | e | e | e | e | e | e | e | e | e | e | e | e | e | e
  · exact fixed (decodeWord_major0 e ▸ h)
  · rw [decodeWord_major1 e] at h; cases h
  · rw [decodeWord_major2 e] at h; cases h
  · rw [decodeWord_major3 e] at h; cases h
  · rw [decodeWord_major4 e] at h; cases h
  · exact decodeNibbleZero_error (decodeWord_major5 e ▸ h)
  · rw [decodeWord_major6 e] at h; cases h
  · rw [decodeWord_major7 e] at h; cases h
  · exact alu (decodeWord_major8 e ▸ h)
  · exact decodeNibbleZero_error (decodeWord_major9 e ▸ h)
  · rw [decodeWord_majorA e] at h; cases h
  · rw [decodeWord_majorB e] at h; cases h
  · rw [decodeWord_majorC e] at h; cases h
  · rw [decodeWord_majorD e] at h; cases h
  · exact keySkip (decodeWord_majorE e ▸ h)
  · exact misc (decodeWord_majorF e ▸ h)

end Sys2Proof
end

