-- ==== Sys2Proof/Laws/Exec.lean ====
section
/-! SUPPORT. What any instruction can do to the mode, the input latch and the parameters, said once: it completes and leaves all three, it
halts and changes the mode alone, or it enters the key-wait. -/

namespace Sys2Proof.Machine

theorem exec_next_cases {i : Instr} {s t : State} (h : exec i s = .next t) :
    (t.mode = s.mode ∧ t.keys = s.keys ∧ t.params = s.params) ∨
    (∃ f, t = s.setMode (.halted f) ∧ s.explains f ∧ f ≠ .outOfBounds ∧ ∀ raw pc, f ≠ .unknownOpcode raw pc) ∨
    (∃ x, i = .ldVxK x ∧ t = s.enterKeyWait x) := by
  cases i
  case ret =>
    rcases orRaise_next h with h | ⟨f, hf, rfl⟩
    · cases hp : s.pop with
      | error f => rw [hp] at h; cases h
      | ok r =>
        rw [hp] at h; cases h
        obtain ⟨_, _, h2⟩ := State.pop_ok hp
        refine .inl ⟨?_, ?_, ?_⟩
        · show r.2.mode = _; rw [h2]; rfl
        · show r.2.keys = _; rw [h2]; rfl
        · show r.2.params = _; rw [h2]; rfl
    · cases hp : s.pop with
      | error f' =>
        rw [hp] at hf; cases hf
        obtain ⟨h1, rfl⟩ := State.pop_error hp
        exact .inr (.inl ⟨_, rfl, h1, by simp, by simp⟩)
      | ok r => rw [hp] at hf; cases hf
  case call nnn =>
    rcases orRaise_next h with h | ⟨f, hf, rfl⟩
    · cases hp : s.push s.nextPc with
      | error f => rw [hp] at h; cases h
      | ok r =>
        rw [hp] at h; cases h
        obtain ⟨_, rfl⟩ := State.push_ok hp
        exact .inl ⟨rfl, rfl, rfl⟩
    · cases hp : s.push s.nextPc with
      | error f' =>
        rw [hp] at hf; cases hf
        obtain ⟨h1, rfl⟩ := State.push_error hp
        exact .inr (.inl ⟨_, rfl, h1, by simp, by simp⟩)
      | ok r => rw [hp] at hf; cases hf
  case skp x | sknp x =>
    rcases orRaise_next h with h | ⟨f, hf, rfl⟩
    · cases hp : s.keyIndex (s.reg x) with
      | error f => rw [hp] at h; cases h
      | ok r => rw [hp] at h; cases h; exact .inl ⟨rfl, rfl, rfl⟩
    · cases hp : s.keyIndex (s.reg x) with
      | error f' =>
        rw [hp] at hf; cases hf
        obtain ⟨h1, rfl⟩ := State.keyIndex_error hp
        exact .inr (.inl ⟨_, rfl, ⟨rfl, h1, x, rfl⟩, by simp, by simp⟩)
      | ok r => rw [hp] at hf; cases hf
  case ldVxK x =>
    cases h
    unfold State.keyWaitWith
    split
    · exact .inr (.inr ⟨x, rfl, rfl⟩)
    · split
      · exact .inr (.inr ⟨x, rfl, rfl⟩)
      · exact .inl ⟨rfl, rfl, rfl⟩
  case storeRegs x =>
    cases h
    obtain ⟨m, hm⟩ := s.storeFirst_eq_setMem (x.val + 1)
    rw [hm]; exact .inl ⟨rfl, rfl, rfl⟩
  case loadRegs x =>
    cases h
    obtain ⟨v, hv⟩ := s.loadFirst_eq_setV (x.val + 1)
    rw [hv]; exact .inl ⟨rfl, rfl, rfl⟩
  case addReg x y | subReg x y | shr x y | subnReg x y | shl x y =>
    cases h
    simp only [State.writeArith]
    refine .inl ⟨?_, ?_, ?_⟩ <;> (simp only [State.writeFlagResult]; cases s.params.vfOrder <;> simp)
  all_goals
    cases h
    exact .inl ⟨rfl, rfl, rfl⟩

end Sys2Proof.Machine
end

