-- ==== Sys2Proof/Laws/PerInstr.lean ====
section
/-! SUPPORT. The per-instruction family `Encoding`: the word of every instruction selects the row of the opcode map that the
instruction stands in (spec/30_encoding.md R84, R85). -/

namespace Sys2Proof.Laws

/-- The row is a row of R85, and the encoded word selects it. -/
def Encoding.Statement (i : Instr) : Prop := i.row ∈ opcodeTable ∧ i.row.selects (encode i) = true

/-! The masks of R85 on the formats of R82: the fixed bits stay, the operand bits go. -/

theorem mask_formatNnn (n1 : BitVec 4) (nnn : Addr12) : formatNnn n1 nnn &&& 0xF000#16 = n1 ++ 0#12 := by
  rw [show (0xF000#16 : Word) = 0xF#4 ++ 0#12 from rfl, formatNnn, BitVec.and_append, BitVec.and_zero,
    show 0xF#4 = BitVec.allOnes 4 from rfl, BitVec.and_allOnes]

theorem mask_formatXkk (n1 : BitVec 4) (x : Reg) (kk : Byte) :
    formatXkk n1 x kk &&& 0xF000#16 = n1 ++ 0#4 ++ 0#8 := by
  rw [show (0xF000#16 : Word) = 0xF#4 ++ 0#4 ++ 0#8 from rfl, formatXkk, BitVec.and_append, BitVec.and_append,
    BitVec.and_zero, BitVec.and_zero, show 0xF#4 = BitVec.allOnes 4 from rfl, BitVec.and_allOnes]

theorem mask_formatXfn (n1 : BitVec 4) (x : Reg) (kk : Byte) :
    formatXkk n1 x kk &&& 0xF0FF#16 = n1 ++ 0#4 ++ kk := by
  rw [show (0xF0FF#16 : Word) = 0xF#4 ++ 0#4 ++ 0xFF#8 from rfl, formatXkk, BitVec.and_append, BitVec.and_append,
    BitVec.and_zero, show 0xF#4 = BitVec.allOnes 4 from rfl, BitVec.and_allOnes,
    show 0xFF#8 = BitVec.allOnes 8 from rfl, BitVec.and_allOnes]

theorem mask_formatXyn (n1 : BitVec 4) (x y : Reg) (n : BitVec 4) :
    formatXyn n1 x y n &&& 0xF00F#16 = n1 ++ 0#4 ++ 0#4 ++ n := by
  rw [show (0xF00F#16 : Word) = 0xF#4 ++ 0#4 ++ 0#4 ++ 0xF#4 from rfl, formatXyn, BitVec.and_append,
    BitVec.and_append, BitVec.and_append, BitVec.and_zero, BitVec.and_zero,
    show 0xF#4 = BitVec.allOnes 4 from rfl, BitVec.and_allOnes, BitVec.and_allOnes]

theorem mask_formatDrw (n1 : BitVec 4) (x y : Reg) (n : BitVec 4) :
    formatXyn n1 x y n &&& 0xF000#16 = n1 ++ 0#4 ++ 0#4 ++ 0#4 := by
  rw [show (0xF000#16 : Word) = 0xF#4 ++ 0#4 ++ 0#4 ++ 0#4 from rfl, formatXyn, BitVec.and_append,
    BitVec.and_append, BitVec.and_append, BitVec.and_zero, BitVec.and_zero, BitVec.and_zero,
    show 0xF#4 = BitVec.allOnes 4 from rfl, BitVec.and_allOnes]

/-- A word selects the row whose value its masked bits are. -/
theorem selects_of_masked {r : OpcodeRow} {w : Word} (h : w &&& r.mask = r.value) : r.selects w = true := by
  unfold OpcodeRow.selects
  rw [h]
  exact beq_self_eq_true _

theorem Encoding.cls : Encoding.Statement .cls :=
  ⟨by decide, by decide⟩

theorem Encoding.ret : Encoding.Statement .ret :=
  ⟨by decide, by decide⟩

theorem Encoding.jp (nnn : Addr12) : Encoding.Statement (.jp nnn) :=
  ⟨by simp [Instr.row, opcodeTable], selects_of_masked (mask_formatNnn _ _)⟩

theorem Encoding.call (nnn : Addr12) : Encoding.Statement (.call nnn) :=
  ⟨by simp [Instr.row, opcodeTable], selects_of_masked (mask_formatNnn _ _)⟩

theorem Encoding.seByte (x : Reg) (kk : Byte) : Encoding.Statement (.seByte x kk) :=
  ⟨by simp [Instr.row, opcodeTable], selects_of_masked (mask_formatXkk _ _ _)⟩

theorem Encoding.sneByte (x : Reg) (kk : Byte) : Encoding.Statement (.sneByte x kk) :=
  ⟨by simp [Instr.row, opcodeTable], selects_of_masked (mask_formatXkk _ _ _)⟩

theorem Encoding.seReg (x y : Reg) : Encoding.Statement (.seReg x y) :=
  ⟨by simp [Instr.row, opcodeTable], selects_of_masked (mask_formatXyn _ _ _ _)⟩

theorem Encoding.ldByte (x : Reg) (kk : Byte) : Encoding.Statement (.ldByte x kk) :=
  ⟨by simp [Instr.row, opcodeTable], selects_of_masked (mask_formatXkk _ _ _)⟩

theorem Encoding.addByte (x : Reg) (kk : Byte) : Encoding.Statement (.addByte x kk) :=
  ⟨by simp [Instr.row, opcodeTable], selects_of_masked (mask_formatXkk _ _ _)⟩

theorem Encoding.ldReg (x y : Reg) : Encoding.Statement (.ldReg x y) :=
  ⟨by simp [Instr.row, opcodeTable], selects_of_masked (mask_formatXyn _ _ _ _)⟩

theorem Encoding.orReg (x y : Reg) : Encoding.Statement (.orReg x y) :=
  ⟨by simp [Instr.row, opcodeTable], selects_of_masked (mask_formatXyn _ _ _ _)⟩

theorem Encoding.andReg (x y : Reg) : Encoding.Statement (.andReg x y) :=
  ⟨by simp [Instr.row, opcodeTable], selects_of_masked (mask_formatXyn _ _ _ _)⟩

theorem Encoding.xorReg (x y : Reg) : Encoding.Statement (.xorReg x y) :=
  ⟨by simp [Instr.row, opcodeTable], selects_of_masked (mask_formatXyn _ _ _ _)⟩

theorem Encoding.addReg (x y : Reg) : Encoding.Statement (.addReg x y) :=
  ⟨by simp [Instr.row, opcodeTable], selects_of_masked (mask_formatXyn _ _ _ _)⟩

theorem Encoding.subReg (x y : Reg) : Encoding.Statement (.subReg x y) :=
  ⟨by simp [Instr.row, opcodeTable], selects_of_masked (mask_formatXyn _ _ _ _)⟩

theorem Encoding.shr (x y : Reg) : Encoding.Statement (.shr x y) :=
  ⟨by simp [Instr.row, opcodeTable], selects_of_masked (mask_formatXyn _ _ _ _)⟩

theorem Encoding.subnReg (x y : Reg) : Encoding.Statement (.subnReg x y) :=
  ⟨by simp [Instr.row, opcodeTable], selects_of_masked (mask_formatXyn _ _ _ _)⟩

theorem Encoding.shl (x y : Reg) : Encoding.Statement (.shl x y) :=
  ⟨by simp [Instr.row, opcodeTable], selects_of_masked (mask_formatXyn _ _ _ _)⟩

theorem Encoding.sneReg (x y : Reg) : Encoding.Statement (.sneReg x y) :=
  ⟨by simp [Instr.row, opcodeTable], selects_of_masked (mask_formatXyn _ _ _ _)⟩

theorem Encoding.ldI (nnn : Addr12) : Encoding.Statement (.ldI nnn) :=
  ⟨by simp [Instr.row, opcodeTable], selects_of_masked (mask_formatNnn _ _)⟩

theorem Encoding.jpV0 (nnn : Addr12) : Encoding.Statement (.jpV0 nnn) :=
  ⟨by simp [Instr.row, opcodeTable], selects_of_masked (mask_formatNnn _ _)⟩

theorem Encoding.rnd (x : Reg) (kk : Byte) : Encoding.Statement (.rnd x kk) :=
  ⟨by simp [Instr.row, opcodeTable], selects_of_masked (mask_formatXkk _ _ _)⟩

theorem Encoding.drw (x y : Reg) (n : Nat) : Encoding.Statement (.drw x y n) :=
  ⟨by simp [Instr.row, opcodeTable], selects_of_masked (mask_formatDrw _ _ _ _)⟩

theorem Encoding.skp (x : Reg) : Encoding.Statement (.skp x) :=
  ⟨by simp [Instr.row, opcodeTable], selects_of_masked (mask_formatXfn _ _ _)⟩

theorem Encoding.sknp (x : Reg) : Encoding.Statement (.sknp x) :=
  ⟨by simp [Instr.row, opcodeTable], selects_of_masked (mask_formatXfn _ _ _)⟩

theorem Encoding.ldVxDt (x : Reg) : Encoding.Statement (.ldVxDt x) :=
  ⟨by simp [Instr.row, opcodeTable], selects_of_masked (mask_formatXfn _ _ _)⟩

theorem Encoding.ldVxK (x : Reg) : Encoding.Statement (.ldVxK x) :=
  ⟨by simp [Instr.row, opcodeTable], selects_of_masked (mask_formatXfn _ _ _)⟩

theorem Encoding.ldDtVx (x : Reg) : Encoding.Statement (.ldDtVx x) :=
  ⟨by simp [Instr.row, opcodeTable], selects_of_masked (mask_formatXfn _ _ _)⟩

theorem Encoding.ldStVx (x : Reg) : Encoding.Statement (.ldStVx x) :=
  ⟨by simp [Instr.row, opcodeTable], selects_of_masked (mask_formatXfn _ _ _)⟩

theorem Encoding.addI (x : Reg) : Encoding.Statement (.addI x) :=
  ⟨by simp [Instr.row, opcodeTable], selects_of_masked (mask_formatXfn _ _ _)⟩

theorem Encoding.ldF (x : Reg) : Encoding.Statement (.ldF x) :=
  ⟨by simp [Instr.row, opcodeTable], selects_of_masked (mask_formatXfn _ _ _)⟩

theorem Encoding.ldB (x : Reg) : Encoding.Statement (.ldB x) :=
  ⟨by simp [Instr.row, opcodeTable], selects_of_masked (mask_formatXfn _ _ _)⟩

theorem Encoding.storeRegs (x : Reg) : Encoding.Statement (.storeRegs x) :=
  ⟨by simp [Instr.row, opcodeTable], selects_of_masked (mask_formatXfn _ _ _)⟩

theorem Encoding.loadRegs (x : Reg) : Encoding.Statement (.loadRegs x) :=
  ⟨by simp [Instr.row, opcodeTable], selects_of_masked (mask_formatXfn _ _ _)⟩

end Sys2Proof.Laws
end

