-- ==== Sys2Proof/Laws/Transfers.lean ====
section
/-! SUPPORT. The loops over memory and registers, said once, byte by byte and register by register: the indexed write, Fx55's store loop,
Fx65's load loop, and the host's run of byte writes. -/

namespace Sys2Proof.Machine

/-- A reduced address is its own reduction. -/
@[simp] theorem dataAddr_mod (a : Nat) : dataAddr (a % 4096) = dataAddr a := by simp [dataAddr, memSize]

theorem State.writeIndexed_wf {s : State} (k : Nat) (b : Byte) (h : s.mem.wf) : (s.writeIndexed k b).mem.wf :=
  State.memWrite_wf _ b h

@[simp] theorem State.writeIndexed_i (s : State) (k : Nat) (b : Byte) : (s.writeIndexed k b).i = s.i := rfl

theorem State.memRead_writeIndexed {s : State} (h : s.mem.wf) (k : Nat) (b : Byte) (a : Nat) :
    (s.writeIndexed k b).memRead a = if dataAddr a = dataAddr (s.i.toNat + k) then b else s.memRead a :=
  State.memRead_memWrite h _ _ _

@[simp] theorem State.storeFirst_i (s : State) (k : Nat) : (s.storeFirst k).i = s.i := by
  obtain ⟨m, hm⟩ := s.storeFirst_eq_setMem k
  rw [hm]; rfl

theorem State.memRead_storeFirst_succ {s : State} (h : s.mem.wf) (k a : Nat) :
    (s.storeFirst (k + 1)).memRead a =
      if dataAddr a = dataAddr (s.i.toNat + k) then s.reg (Fin.ofNat 16 k) else (s.storeFirst k).memRead a := by
  show ((s.storeFirst k).writeIndexed k _).memRead a = _
  rw [State.memRead_writeIndexed (State.storeFirst_wf k h), State.storeFirst_i]

/-- The store loop, where it stores: the byte of register j is at `I + j`. -/
theorem State.memRead_storeFirst_of_mem {s : State} (h : s.mem.wf) {k : Nat} (hk : k ≤ 16) (j : Reg) (hj : j.val < k)
    {a : Nat} (ha : dataAddr a = dataAddr (s.i.toNat + j.val)) : (s.storeFirst k).memRead a = s.reg j := by
  induction k with
  | zero => omega
  | succ k ih =>
    rw [State.memRead_storeFirst_succ h]
    by_cases hjk : j.val = k
    · rw [if_pos (by rw [ha, hjk]), show Fin.ofNat 16 k = j from Fin.ext (by simp; omega)]
    · rw [if_neg (by rw [ha]; simp only [dataAddr, memSize]; omega), ih (by omega) (by omega)]

/-- The store loop leaves every other byte. -/
theorem State.memRead_storeFirst_of_not_mem {s : State} (h : s.mem.wf) {k : Nat} {a : Nat}
    (ha : ∀ j, j < k → dataAddr a ≠ dataAddr (s.i.toNat + j)) : (s.storeFirst k).memRead a = s.memRead a := by
  induction k with
  | zero => rfl
  | succ k ih =>
    rw [State.memRead_storeFirst_succ h, if_neg (ha k (by omega)), ih (fun j hj => ha j (by omega))]

/-- The load loop, register by register. -/
theorem State.reg_loadFirst (s : State) {k : Nat} (hk : k ≤ 16) (r : Reg) :
    (s.loadFirst k).reg r = if r.val < k then s.memRead (s.i.toNat + r.val) else s.reg r := by
  induction k with
  | zero => rfl
  | succ k ih =>
    show ((s.loadFirst k).setReg _ _).reg r = _
    rw [State.reg_setReg, ih (by omega)]
    by_cases h : r.val = k
    · rw [if_pos (Fin.ext (by simp; omega)), if_pos (by omega), h]; rfl
    · rw [if_neg (fun e => h (by rw [e]; simp; omega))]
      by_cases h2 : r.val < k
      · rw [if_pos h2, if_pos (by omega)]
      · rw [if_neg h2, if_neg (by omega)]

/-- The host's run of byte writes inside the address space, byte by byte. -/
theorem State.memRead_writeBytes {s : State} (h : s.mem.wf) (a : Nat) (bytes : List Byte) (hl : a + bytes.length ≤ memSize)
    (c : Nat) :
    (s.writeBytes a bytes).memRead c =
      if hc : a ≤ dataAddr c ∧ dataAddr c < a + bytes.length then bytes[dataAddr c - a]'(by omega) else s.memRead c := by
  induction bytes generalizing s a with
  | nil => simp [State.writeBytes]
  | cons b rest ih =>
    simp only [List.length_cons] at hl
    show ((s.memWrite a b).writeBytes (a + 1) rest).memRead c = _
    rw [ih (State.memWrite_wf a b h) _ (by omega)]
    have hda : dataAddr a = a := dataAddr_of_lt (by omega)
    by_cases h1 : a + 1 ≤ dataAddr c ∧ dataAddr c < a + 1 + rest.length
    · rw [dif_pos h1, dif_pos (by simp; omega)]
      have : dataAddr c - a = (dataAddr c - (a + 1)) + 1 := by omega
      simp [this]
    · rw [dif_neg h1, State.memRead_memWrite h, hda]
      by_cases h2 : dataAddr c = a
      · rw [if_pos h2, dif_pos (by simp; omega)]; simp [h2]
      · rw [if_neg h2, dif_neg (by simp; omega)]

end Sys2Proof.Machine
end

