-- ==== Sys2Proof/Tests/Slice0.lean ====
section
/-! SUPPORT. The model's own tests: the well-formedness check; decode words written out from spec/30_encoding.md R82 and R85, one for every
constructor; one-step tests whose expected results are the rows T, H and E of spec/95_test_vectors.md (named in each theorem) or are
worked by hand from the rule named; and, for every statement with hypotheses, a witness that meets them. -/

namespace Sys2Proof.Tests

open Sys2Proof.Machine

/-! ## Helpers -/

/-- Reset with some registers set. -/
def withRegs (l : List (Reg × Byte)) : State := l.foldl (fun s p => s.setReg p.1 p.2) State.reset

/-- Bytes written one after another from an address on. -/
def withBytes (s : State) (a : Nat) (bytes : List Byte) : State := s.writeBytes a bytes

/-- The state after one step on the word `w`, stored where the machine fetches. -/
def after (s : State) (w : Nat) : Option State :=
  match step (s.withFetchWord 16 w) with
  | .next t => some t
  | .fault _ => none
  | .refused _ => none

/-- The values of some registers, and `pc`, after one step. -/
def regsAfter (s : State) (w : Nat) (l : List Reg) : Option (List Byte × Word) :=
  (after s w).map (fun t => (l.map t.reg, t.pc))

/-- What one step on the word `w` returns. -/
def statusAfter (s : State) (w : Nat) : Option Status := (s.withFetchWord 16 w).cycleStatus

/-- The next state of an answer, or reset. -/
def stateOf (a : Answer) : State :=
  match a with
  | .next t => t
  | .fault _ => State.reset
  | .refused _ => State.reset

def flagLastParams : Params := { Config.defaultParams with vfOrder := .flagLast }
def levelParams : Params := { Config.defaultParams with keyTrigger := .level }

/-- Reset at a given `pc`. -/
def atPc (a : Word) : State := State.reset.setPc a

/-- Reset with a call stack of the given depth, every entry the same. -/
def withDepth (d : Fin 17) (a : Word) : State := State.reset.setStack (Vector.replicate 16 a) d

/-- The keys with one held. -/
def oneKey (k : Key) : Vector Bool 16 := (Vector.replicate 16 false).set k.val true

/-- Reset with one key held. -/
def withKey (k : Key) : State := State.reset.setKeys (oneKey k)

/-- A waiting core at the entry point, destination V3, no key held at the previous poll. -/
def waiting : State := State.reset.enterKeyWait 3

/-- Every cell set. -/
def fullScreen : FrameBuffer := Vector.replicate 64 (Vector.replicate 32 true)

/-! ## Well-formedness (the one check: the row count of Dxyn) -/

theorem test_wf_refuses_sixteen_rows : (Instr.drw 0 0 16).wellFormed = false := by decide
theorem test_wf_refuses_a_large_count : (Instr.drw 15 15 1000).wellFormed = false := by decide
theorem test_wf_takes_fifteen_rows : (Instr.drw 15 15 15).wellFormed = true := by decide
theorem test_wf_takes_no_row : (Instr.drw 0 0 0).wellFormed = true := by decide

/-! ## Decode: words written bit by bit from R82 and R85, every constructor -/

theorem test_decode_cls : decodeTableWord 16 0b0000000011100000 = some (.cls) := by decide
theorem test_decode_ret : decodeTableWord 16 0b0000000011101110 = some (.ret) := by decide
theorem test_decode_jp : decodeTableWord 16 0b0001101010111100 = some (.jp 0xABC) := by decide
theorem test_decode_call : decodeTableWord 16 0b0010111111111111 = some (.call 0xFFF) := by decide
theorem test_decode_seByte : decodeTableWord 16 0b0011111100000001 = some (.seByte 15 0x01) := by decide
theorem test_decode_sneByte : decodeTableWord 16 0b0100001101000010 = some (.sneByte 3 0x42) := by decide
theorem test_decode_seReg : decodeTableWord 16 0b0101101010110000 = some (.seReg 10 11) := by decide
theorem test_decode_ldByte : decodeTableWord 16 0b0110000011101010 = some (.ldByte 0 0xEA) := by decide
theorem test_decode_addByte : decodeTableWord 16 0b0111111010000001 = some (.addByte 14 0x81) := by decide
theorem test_decode_ldReg : decodeTableWord 16 0b1000101010110000 = some (.ldReg 10 11) := by decide
theorem test_decode_orReg : decodeTableWord 16 0b1000000111100001 = some (.orReg 1 14) := by decide
theorem test_decode_andReg : decodeTableWord 16 0b1000001011010010 = some (.andReg 2 13) := by decide
theorem test_decode_xorReg : decodeTableWord 16 0b1000001111000011 = some (.xorReg 3 12) := by decide
theorem test_decode_addReg : decodeTableWord 16 0b1000101010110100 = some (.addReg 10 11) := by decide
theorem test_decode_subReg : decodeTableWord 16 0b1000010110100101 = some (.subReg 5 10) := by decide
theorem test_decode_shr : decodeTableWord 16 0b1000000000110110 = some (.shr 0 3) := by decide
theorem test_decode_subnReg : decodeTableWord 16 0b1000011110000111 = some (.subnReg 7 8) := by decide
theorem test_decode_shl : decodeTableWord 16 0b1000101000001110 = some (.shl 10 0) := by decide
theorem test_decode_sneReg : decodeTableWord 16 0b1001101010110000 = some (.sneReg 10 11) := by decide
theorem test_decode_ldI : decodeTableWord 16 0b1010001100000000 = some (.ldI 0x300) := by decide
theorem test_decode_jpV0 : decodeTableWord 16 0b1011000100100011 = some (.jpV0 0x123) := by decide
theorem test_decode_rnd : decodeTableWord 16 0b1100100100001111 = some (.rnd 9 0x0F) := by decide
theorem test_decode_drw : decodeTableWord 16 0b1101000100100101 = some (.drw 1 2 5) := by decide
theorem test_decode_skp : decodeTableWord 16 0b1110001010011110 = some (.skp 2) := by decide
theorem test_decode_sknp : decodeTableWord 16 0b1110110110100001 = some (.sknp 13) := by decide
theorem test_decode_ldVxDt : decodeTableWord 16 0b1111000100000111 = some (.ldVxDt 1) := by decide
theorem test_decode_ldVxK : decodeTableWord 16 0b1111001100001010 = some (.ldVxK 3) := by decide
theorem test_decode_ldDtVx : decodeTableWord 16 0b1111010000010101 = some (.ldDtVx 4) := by decide
theorem test_decode_ldStVx : decodeTableWord 16 0b1111001000011000 = some (.ldStVx 2) := by decide
theorem test_decode_addI : decodeTableWord 16 0b1111011000011110 = some (.addI 6) := by decide
theorem test_decode_ldF : decodeTableWord 16 0b1111001100101001 = some (.ldF 3) := by decide
theorem test_decode_ldB : decodeTableWord 16 0b1111010100110011 = some (.ldB 5) := by decide
theorem test_decode_storeRegs : decodeTableWord 16 0b1111101001010101 = some (.storeRegs 10) := by decide
theorem test_decode_loadRegs : decodeTableWord 16 0b1111001001100101 = some (.loadRegs 2) := by decide

/-- The words 95_test_vectors.md section 2.1 lists as illegal, and one of each other line of R89. -/
theorem test_illegal_words : ([0x00E1, 0x0000, 0x0123, 0x00FF, 0x5AB1, 0x8AB8, 0x8AB9, 0x8ABA, 0x8ABB, 0x8ABC] ++
    [0x8ABD, 0x8ABF, 0x9AB1, 0xE2A2, 0xE000, 0xF275, 0xF000, 0xFFFF]).all (fun w => (decodeTableWord 16 w).isNone) = true := by
  decide

/-- A word's first byte is its high one (R56). -/
theorem test_bytes_of_a_word : encodeBytes (.ldByte 0 0xEA) = [0x60, 0xEA] := by decide

theorem test_decode_leaves_the_rest : decode [0x12, 0x04, 0xAA] = .ok (.jp 0x204, [0xAA]) := by rfl
theorem test_decode_one_byte : decode [0x12] = .error .truncated := by rfl

/-! ## One step: display (T1, T5, T7, T8, T11, T12) -/

theorem test_cls_T1 : (after (State.reset.setFb fullScreen) 0x00E0).map (fun t => (t.fb.pixel 0 0, t.fb.pixel 63 31, t.pc)) =
    some (false, false, 0x202) := by decide
theorem test_drw_wraps_T5 : (after (withBytes ((withRegs [(0, 60)]).setI 0x300) 0x300 [0xFF]) 0xD011).map
    (fun t => (t.fb.pixel 60 0, t.fb.pixel 63 0, t.fb.pixel 3 0, t.fb.pixel 4 0, t.fb.pixel 59 0)) =
    some (true, true, true, false, false) := by decide
theorem test_drw_collision_T10 : (after ((withBytes (State.reset.setI 0x300) 0x300 [0x81]).setFb
    (FrameBuffer.blank.setPixel 7 0 true)) 0xD011).map (fun t => (t.fb.pixel 0 0, t.fb.pixel 7 0, t.reg 15)) =
    some (true, false, 0x01) := by decide

/-! ## One step: control flow (T13 to T30) -/

theorem test_ret_T13 : (after ((withDepth 1 0x206).setPc 0x212) 0x00EE).map (fun t => (t.pc, t.sp)) = some (0x206, 0) := by decide
theorem test_ret_underflow_T14 : statusAfter State.reset 0x00EE = some (.fatal .stackUnderflow) := by decide
theorem test_jp_T15 : regsAfter (atPc 0x208) 0x1204 [] = some ([], 0x204) := by decide
theorem test_call_T17 : (after (atPc 0x204) 0x2210).map (fun t => (t.pc, t.sp, t.stack[0])) = some (0x210, 1, 0x206) := by decide
theorem test_call_overflow_T18 : statusAfter (withDepth 16 0x202) 0x2300 = some (.fatal .stackOverflow) := by decide
theorem test_seByte_T20 : regsAfter (withRegs [(3, 0x42)]) 0x3342 [] = some ([], 0x204) := by decide
theorem test_seByte_T28 : regsAfter (atPc 0xFFC) 0x3000 [] = some ([], 0x1000) := by decide
theorem test_sneByte_T22 : regsAfter (withRegs [(3, 0x41)]) 0x4342 [] = some ([], 0x204) := by decide
theorem test_sneByte_T23 : regsAfter (withRegs [(3, 0x42)]) 0x4342 [] = some ([], 0x202) := by decide
theorem test_seReg_T24 : regsAfter (withRegs [(1, 9), (2, 9)]) 0x5120 [] = some ([], 0x204) := by decide
theorem test_sneReg_T26 : regsAfter (withRegs [(1, 9), (2, 8)]) 0x9120 [] = some ([], 0x204) := by decide
theorem test_sneReg_T27 : regsAfter (withRegs [(1, 9), (2, 9)]) 0x9120 [] = some ([], 0x202) := by decide
theorem test_jpV0_T29 : regsAfter (withRegs [(0, 0x10)]) 0xB300 [] = some ([], 0x310) := by decide
theorem test_jpV0_T30 : regsAfter (withRegs [(0, 0xFF)]) 0xBFFF [] = some ([], 0x10FE) := by decide

/-! ## One step: registers (T31 to T59) -/

theorem test_ldByte_T32 : regsAfter State.reset 0x6F07 [15] = some ([0x07], 0x202) := by decide
theorem test_addByte_T33 : regsAfter (withRegs [(0, 0xFF), (15, 0x33)]) 0x7001 [0, 15] = some ([0x00, 0x33], 0x202) := by decide
theorem test_ldReg_T34 : regsAfter (withRegs [(1, 0x42)]) 0x8010 [0, 1] = some ([0x42, 0x42], 0x202) := by decide
theorem test_orReg_T35 : regsAfter (withRegs [(0, 0xF0), (1, 0x0F), (15, 0x55)]) 0x8011 [0, 15] = some ([0xFF, 0x55], 0x202) := by
  decide
theorem test_andReg_T36 : regsAfter (withRegs [(0, 0xF0), (1, 0x3C)]) 0x8012 [0] = some ([0x30], 0x202) := by decide
theorem test_xorReg_T37 : regsAfter (withRegs [(0, 0xFF), (1, 0x0F)]) 0x8013 [0] = some ([0xF0], 0x202) := by decide
theorem test_addReg_T39 : regsAfter (withRegs [(0, 0xFF), (1, 0x02)]) 0x8014 [0, 15] = some ([0x01, 0x01], 0x202) := by decide
theorem test_addReg_T43 : regsAfter { withRegs [(15, 0x10), (1, 0x02)] with params := flagLastParams } 0x8F14 [15] =
    some ([0x00], 0x202) := by decide
theorem test_subReg_T44 : regsAfter (withRegs [(15, 0x77), (0, 3), (1, 5)]) 0x8015 [0, 15] = some ([0xFE, 0x00], 0x202) := by decide
theorem test_subReg_T45 : regsAfter (withRegs [(0, 7), (1, 7)]) 0x8015 [0, 15] = some ([0x00, 0x01], 0x202) := by decide
theorem test_shr_T50 : regsAfter (withRegs [(15, 0x77), (0, 4), (3, 0xFF)]) 0x8036 [0, 15] = some ([0x02, 0x00], 0x202) := by decide
theorem test_shr_T51 : regsAfter (withRegs [(15, 6)]) 0x8F06 [15] = some ([0x03], 0x202) := by decide
theorem test_subnReg_T52 : regsAfter (withRegs [(15, 0x77), (0, 5), (1, 3)]) 0x8017 [0, 15] = some ([0xFE, 0x00], 0x202) := by decide
theorem test_subnReg_T53 : regsAfter (withRegs [(0, 3), (1, 5)]) 0x8017 [0, 15] = some ([0x02, 0x01], 0x202) := by decide
theorem test_shl_T54 : regsAfter (withRegs [(0, 0x81)]) 0x800E [0, 15] = some ([0x02, 0x01], 0x202) := by decide
theorem test_shl_T57 : regsAfter { withRegs [(15, 0x81)] with params := flagLastParams } 0x8F0E [15] = some ([0x01], 0x202) := by decide
/-- With the draw of T58 given. -/
theorem test_rnd_T58 : (State.reset.rndWith 0 0x0F 0xA7).reg 0 = 0x07 := by decide

/-! ## One step: index and memory (T60 to T73) -/

theorem test_ldI_T60 : (after State.reset 0xA300).map (fun t => (t.i, t.pc)) = some (0x300, 0x202) := by decide
theorem test_addI_T62 : (after ((withRegs [(0, 1)]).setI 0xFFF) 0xF01E).map (·.i) = some 0x1000 := by decide
theorem test_addI_T63 : (after ((withRegs [(0, 1), (15, 7)]).setI 0xFFFF) 0xF01E).map (fun t => (t.i, t.reg 15)) = some (0, 7) := by
  decide
theorem test_ldF_T65 : (after (withRegs [(3, 0xFF)]) 0xF329).map (·.i) = some 0x4FB := by decide
theorem test_ldB_T66 : (after ((withRegs [(5, 234)]).setI 0x300) 0xF533).map
    (fun t => (t.memRead 0x300, t.memRead 0x301, t.memRead 0x302, t.i)) = some (2, 3, 4, 0x300) := by decide
theorem test_ldB_T68 : (after (withBytes (withBytes ((withRegs [(5, 7)]).setI 0xFFE) 0xFFE [9, 9]) 0 [9]) 0xF533).map
    (fun t => (t.memRead 0xFFE, t.memRead 0xFFF, t.memRead 0)) = some (0, 0, 7) := by decide
theorem test_storeRegs_T69 : (after ((withRegs [(0, 1), (1, 2), (2, 3), (3, 4)]).setI 0x300) 0xF255).map
    (fun t => ([0x300, 0x301, 0x302, 0x303].map t.memRead, t.i)) = some ([1, 2, 3, 0], 0x300) := by decide
theorem test_storeRegs_T73 : (after ((withRegs [(0, 0x11), (1, 0x22)]).setI 0xFFF) 0xF155).map
    (fun t => (t.memRead 0xFFF, t.memRead 0)) = some (0x11, 0x22) := by decide
theorem test_loadRegs_T71 : regsAfter (withBytes (State.reset.setI 0x300) 0x300 [2, 3, 4, 5]) 0xF265 [0, 1, 2, 3] =
    some ([2, 3, 4, 0], 0x202) := by decide

/-! ## One step: keys and timers (T74 to T87) -/

theorem test_skp_T74 : regsAfter ((withKey 7).setReg 1 7) 0xE19E [] = some ([], 0x204) := by decide
theorem test_skp_T78 : statusAfter (withRegs [(1, 0x10)]) 0xE19E = some (.fatal (.keyIndexOutOfRange 16 0x200)) := by decide
theorem test_sknp_T76 : regsAfter (withRegs [(1, 7)]) 0xE1A1 [] = some ([], 0x204) := by decide
theorem test_sknp_T77 : regsAfter ((withKey 7).setReg 1 7) 0xE1A1 [] = some ([], 0x202) := by decide
theorem test_ldVxDt_T79 : (after (State.reset.setDt 60) 0xF107).map (fun t => (t.reg 1, t.dt)) = some (0x3C, 60) := by decide
theorem test_ldDtVx_T80 : (after (withRegs [(0, 5)]) 0xF015).map (fun t => (t.dt, t.st)) = some (5, 0) := by decide
theorem test_ldStVx_T81 : (after (withRegs [(2, 0x1E)]) 0xF218).map (fun t => (t.st, t.dt)) = some (30, 0) := by decide
theorem test_ldVxK_entry_T84 : (after (withKey 2) 0xF30A).map (fun t => (t.mode, t.kwReg, t.kwPrev, t.pc)) =
    some (.awaitKey, 3, oneKey 2, 0x200) := by decide
theorem test_ldVxK_level_T86 : regsAfter { withKey 2 with params := levelParams } 0xF30A [3] = some ([2], 0x202) := by
  show some ([BitVec.ofNat 8 (pickKey 2 [] (Config.freeKey 0)).val], 0x202#16) = _
  rw [show pickKey 2 [] (Config.freeKey 0) = 2 from List.mem_singleton.mp (by unfold pickKey; split <;> simp_all)]
  rfl
/-- With the draw of T87 given. -/
theorem test_poll_T87 : ((waiting.setKeys ((oneKey 4).set 9 true)).pollWith 9).reg 3 = 9 := by decide
theorem test_poll_least_key : ((waiting.setKeys ((oneKey 4).set 9 true)).pollWith 5).reg 3 = 4 := by decide
/-- T84: a key held since the entry does not complete the wait. -/
theorem test_poll_held_T84 : (((withKey 2).enterKeyWait 3).pollWith 2).mode = .awaitKey := by decide

/-! ## The cycle (T88 to T96; R101, R265) -/

theorem test_fetch_at_FFE_T88 : regsAfter (atPc 0xFFE) 0x6001 [0] = some ([0x01], 0x1000) := by decide
theorem test_fetch_at_FFF_T89 : (atPc 0xFFF).cycleStatus = some (.fatal .outOfBounds) := by decide
theorem test_unknown_T91 : statusAfter State.reset 0x5121 = some (.fatal (.unknownOpcode 0x5121 0x200)) := by decide
/-- H11, R265: from the bare reset state the first cycle meets an illegal word. -/
theorem test_bare_reset_H11 : State.reset.cycleStatus = some (.fatal (.unknownOpcode 0x0000 0x200)) := by decide
theorem test_halted_H12 : ((atPc 0xFFF).setMode (.halted .outOfBounds)).cycleStatus = some (.fatal .outOfBounds) := by decide
theorem test_codes : [Status.continuing, .awaitingKey, .fatal .outOfBounds, .fatal (.unknownOpcode 0 0), .fatal .stackOverflow,
    .fatal .stackUnderflow, .fatal (.keyIndexOutOfRange 16 0)].map Status.code = [0, 1, 2, 3, 4, 5, 6] := by decide

/-! ## The host's transactions (H1 to H10) -/

theorem test_tick_H2 : (((State.reset.setSt 1).tickTimers).dt, ((State.reset.setSt 1).tickTimers).st,
    (State.reset.setSt 1).tickTimers.soundActive) = (0, 0, false) := by decide
theorem test_tick_H4 : (((State.reset.setDt 5).setMode (.halted .stackOverflow)).tickTimers.dt,
    ((State.reset.setDt 5).setMode (.halted .stackOverflow)).tickTimers.mode) = (4, .halted .stackOverflow) := by decide
theorem test_setKey_H7 : (State.reset.pressKey 15 true).keys = oneKey 15 := by decide
theorem test_loadFont_H8 : [0x000, 0x001, 0x04F, 0x050].map State.reset.loadFont.memRead = [0xF0, 0x90, 0x80, 0x00] := by decide
theorem test_loadProgram_H9 : (stateOf (State.reset.loadProgram [0x12, 0x00])).fetch = .ok 0x1200 := by rfl
theorem test_reset_H10 : stateOf (((withRegs [(3, 7)]).setMode (.halted .stackOverflow)).transact .reset) = State.reset := by rfl

/-! ## Witnesses: for each statement with hypotheses, a state and operands that meet them -/


theorem witness_DecodeOfEncodeIsTheInstruction :
    (Instr.drw 15 0 15).wellFormed = true ∧ (Instr.drw 0 15 0).wellFormed = true ∧ (Instr.storeRegs 15).wellFormed = true := by decide

theorem witness_EncodeOfDecodeIsTheWord : decodeWord 0xDFFF = .ok (.drw 15 15 15) ∧ decodeWord 0x00E0 = .ok .cls := ⟨rfl, rfl⟩

/-- Each of the two cases has a word. -/
theorem witness_DecodeReturnsTheUniqueRowAndItsFields :
    decodeWord 0xFF65 = .ok (.loadRegs 15) ∧ decodeWord 0xFF66 = .error (.unknownOpcode 0xFF66) := ⟨rfl, rfl⟩

/-- At the highest fetch address. -/
theorem witness_StepRunsTheDecodedInstruction :
    let s := withBytes (atPc 0xFFE) 0xFFE [0x60, 0x01]
    s.mode = .run ∧ s.pc.toNat ≤ 0xFFE ∧
    decodeWord (BitVec.ofNat 16 ((s.memRead s.pc.toNat).toNat * 256 + (s.memRead (s.pc.toNat + 1)).toNat)) = .ok (.ldByte 0 1) :=
  ⟨rfl, by decide, rfl⟩

theorem witness_PlacedWordRunsNext :
    State.reset.mem.wf ∧ 0xFF65 < 65536 ∧ decodeTableWord 16 0xFF65 = some (.loadRegs 15) := by decide

/-- Both sides of the bound: 0xFFE holds no halt by bounds, 0xFFF does. -/
theorem witness_FetchOutOfBoundsHaltsExactlyAboveFFE :
    (atPc 0xFFF).mode = .run ∧ (atPc 0xFFF).pc.toNat > 0xFFE ∧ (atPc 0xFFE).mode = .run ∧ ¬ (atPc 0xFFE).pc.toNat > 0xFFE := by decide

/-- An undecodable word fetched, and a decodable one. -/
theorem witness_UnknownOpcodeIsRaisedExactlyOnUndecodableWords :
    State.reset.mode = .run ∧ State.reset.fetch = .ok 0x0000 ∧ decodeWord 0x0000 = .error (.unknownOpcode 0x0000) ∧
    (withBytes State.reset 0x200 [0x12, 0x00]).fetch = .ok 0x1200 ∧ decodeWord 0x1200 = .ok (.jp 0x200) := ⟨rfl, rfl, rfl, rfl, rfl⟩

theorem witness_StackMisuse_depths : (withDepth 16 0x202).sp.val = 16 ∧ State.reset.sp.val = 0 := by decide

/-- Third clause: a push at depth 15, a pop at depth 16. -/
theorem witness_StackMisuse_moves :
    (∃ t, exec (.call 0x300) (withDepth 15 0x202) = .next t ∧ t.sp ≠ (withDepth 15 0x202).sp) ∧
    (∃ t, exec .ret (withDepth 16 0x202) = .next t ∧ t.sp ≠ (withDepth 16 0x202).sp) :=
  ⟨⟨_, rfl, by decide⟩, ⟨_, rfl, by decide⟩⟩

/-- Each of the five fatal statuses, entered from Run. -/
theorem witness_HaltEntryIsPrecise :
    (∃ t, step (atPc 0xFFF) = .next t ∧ t.mode = .halted .outOfBounds) ∧
    (∃ t, step State.reset = .next t ∧ t.mode = .halted (.unknownOpcode 0 0x200)) ∧
    (∃ t, step ((withDepth 16 0x202).withFetchWord 16 0x2300) = .next t ∧ t.mode = .halted .stackOverflow) ∧
    (∃ t, step (State.reset.withFetchWord 16 0x00EE) = .next t ∧ t.mode = .halted .stackUnderflow) ∧
    (∃ t, step ((withRegs [(1, 16)]).withFetchWord 16 0xE19E) = .next t ∧ t.mode = .halted (.keyIndexOutOfRange 16 0x200)) :=
  ⟨⟨_, rfl, rfl⟩, ⟨_, rfl, rfl⟩, ⟨_, rfl, rfl⟩, ⟨_, rfl, rfl⟩, ⟨_, rfl, rfl⟩⟩

theorem witness_HaltedCoreLeavesOnlyByReset :
    (State.reset.setMode (.halted .stackOverflow)).mode = .halted .stackOverflow ∧ Transaction.tickTimers ≠ .reset ∧
    ∃ t, (State.reset.setMode (.halted .stackOverflow)).transact .tickTimers = .next t := ⟨rfl, by decide, ⟨_, rfl⟩⟩

/-- From Run: on, into the wait, into a halt. -/
theorem witness_ModeTransitions_run :
    (∃ t, step (State.reset.withFetchWord 16 0x1200) = .next t ∧ t.mode = .run) ∧
    (∃ t, step (State.reset.withFetchWord 16 0xFF0A) = .next t ∧ t.mode = .awaitKey) ∧
    (∃ t, step State.reset = .next t ∧ t.mode = .halted (.unknownOpcode 0 0x200)) :=
  ⟨⟨_, rfl, rfl⟩, ⟨_, rfl, rfl⟩, ⟨_, rfl, rfl⟩⟩

/-- From AwaitKey: no key qualifies, one does; and a halted core. -/
theorem witness_ModeTransitions_wait :
    (waiting.mode = .awaitKey ∧ (∀ k : Key, ¬ Qualifies waiting k) ∧ ∃ t, step waiting = .next t) ∧
    ((waiting.setKeys (oneKey 15)).mode = .awaitKey ∧ Qualifies (waiting.setKeys (oneKey 15)) 15 ∧
      ∃ t, step (waiting.setKeys (oneKey 15)) = .next t) ∧
    (∃ t, step (State.reset.setMode (.halted .stackUnderflow)) = .next t) := by
  refine ⟨⟨rfl, ?_, ⟨_, rfl⟩⟩, ⟨rfl, ⟨rfl, fun _ => rfl⟩, ⟨_, rfl⟩⟩, ⟨_, rfl⟩⟩
  intro k h
  exact Bool.false_ne_true ((show (Vector.replicate 16 false)[k.val] = false from Vector.getElem_replicate ..).symm.trans h.1)

/-! States at the edges of the invariant -/

/-- `pc` at its largest, a full stack of the largest return address. -/
def edgeState : State := (withDepth 16 0x1000).setPc 0x10FE

theorem edgeState_inv : edgeState.Inv := ⟨by decide, by decide, by decide, trivial⟩

/-- A waiting core at the highest fetch address. -/
def edgeWait : State := (atPc 0xFFE).enterKeyWait 15

theorem edgeWait_inv : edgeWait.Inv := ⟨by decide, by decide, by decide, by show edgeWait.pc ≤ lastFetch; decide⟩

/-- A core halted by a key index out of range. -/
def edgeHalt : State := (withRegs [(1, 16)]).setMode (.halted (.keyIndexOutOfRange 16 0x200))

theorem edgeHalt_inv : edgeHalt.Inv :=
  ⟨by decide, by decide, by decide, ⟨rfl, by decide, 1, rfl⟩⟩

theorem witness_StepKeepsInvariant :
    (edgeState.Inv ∧ ∃ t, step edgeState = .next t) ∧ (edgeWait.Inv ∧ ∃ t, step edgeWait = .next t) ∧
    (edgeHalt.Inv ∧ ∃ t, step edgeHalt = .next t) ∧ (State.reset.Inv ∧ ∃ t, step (State.reset.withFetchWord 16 0xD01F) = .next t) :=
  ⟨⟨edgeState_inv, ⟨_, rfl⟩⟩, ⟨edgeWait_inv, ⟨_, rfl⟩⟩, ⟨edgeHalt_inv, ⟨_, rfl⟩⟩,
   ⟨⟨by decide, by decide, by decide, trivial⟩, ⟨_, rfl⟩⟩⟩

theorem witness_EveryRunOfTransactionsKeepsInvariant : edgeHalt.Inv ∧
    ∃ t, edgeHalt.runAll [.cycle, .tickTimers, .setKey 15 true, .loadProgram [0x12, 0x00], .reset, .cycle] = .next t :=
  ⟨edgeHalt_inv, ⟨_, rfl⟩⟩

theorem witness_StepNeverWritesTheInputLatch : ∃ t, step (withKey 2) = .next t := ⟨_, rfl⟩

theorem witness_ScreenChangesOnlyByClearAndDraw :
    ∃ t, step ((State.reset.setFb fullScreen).withFetchWord 16 0x00E0) = .next t ∧ t.fb.pixel 63 31 ≠ fullScreen.pixel 63 31 :=
  ⟨_, rfl, by decide⟩

/-- A step that loads each timer; a tick; another transaction than `cycle()`. -/
theorem witness_TimersAreOnlyLoadedOrDecremented :
    (∃ t, step ((withRegs [(0, 5)]).withFetchWord 16 0xF015) = .next t ∧ t.dt ≠ 0) ∧
    (∃ t, step ((withRegs [(0, 5)]).withFetchWord 16 0xF018) = .next t ∧ t.st ≠ 0) ∧
    (Transaction.reset ≠ .cycle ∧ ∃ t, (State.reset.setDt 255).transact .reset = .next t) ∧
    (∃ t, (State.reset.setDt 255).transact .tickTimers = .next t) :=
  ⟨⟨_, rfl, by decide⟩, ⟨_, rfl, by decide⟩, ⟨by decide, ⟨_, rfl⟩⟩, ⟨_, rfl⟩⟩

theorem witness_OtherInstructionsLeaveVfUnchanged :
    ¬ MayWriteVf (.addByte 14 1) ∧ ∃ t, exec (.addByte 14 1) State.reset = .next t :=
  ⟨show (14 : Reg) ≠ vf by decide, ⟨_, rfl⟩⟩

theorem witness_OnlyStoresWriteMemory :
    ∃ t, step (((withRegs [(0, 1)]).setI 0x300).withFetchWord 16 0xF055) = .next t ∧
      t.memRead 0x300 ≠ (((withRegs [(0, 1)]).setI 0x300).withFetchWord 16 0xF055).memRead 0x300 := ⟨_, rfl, by decide⟩

theorem witness_NoStepReadsTheSoundTimer : ∃ t, step (State.reset.setSt 255) = .next t := ⟨_, rfl⟩

/-- One live entry, the dead ones different. -/
theorem witness_DeadStackEntriesAreNeverSeen :
    (∀ j : Fin 16, j.val < (withDepth 1 0x202).sp.val →
      ((Vector.replicate 16 0x999#16).set 0 0x202#16)[j.val] = (withDepth 1 0x202).stack[j.val]) ∧
    ∃ t, step ((withDepth 1 0x202).withFetchWord 16 0x00EE) = .next t := ⟨by decide, ⟨_, rfl⟩⟩

/-- T16, and the highest address that can hold a word. -/
theorem witness_ParkedStateStepsToItself :
    (withBytes State.reset 0x200 [0x12, 0x00]).parked ∧ (withBytes (atPc 0xFFE) 0xFFE [0x1F, 0xFE]).parked :=
  ⟨⟨rfl, by decide, rfl⟩, ⟨rfl, by decide, rfl⟩⟩

/-- The store at the last word, through a reduction of I. -/
theorem witness_StoreOntoTheNextWordIsFetched :
    let s := ((withRegs [(0, 0x12), (1, 0x0A)]).setI 0x1FFE).setPc 0xFFC
    s.mem.wf ∧ (1 : Reg).val ≥ 1 ∧ s.pc.toNat + 2 ≤ 0xFFE ∧ s.i.toNat % 4096 = s.pc.toNat + 2 ∧
      ∃ t, exec (.storeRegs 1) s = .next t := ⟨by decide, by decide, by decide, by decide, ⟨_, rfl⟩⟩

/-- The tallest sprite; a collision and none. -/
theorem witness_DrawXorsTheSpriteAndReportsCollision : 15 ≤ 15 ∧
    (∃ t, exec (.drw 0 0 1) { State.reset with fb := fullScreen, mem := [(0, 0x80)] } = .next t ∧
      fullScreen.pixel 0 0 = true ∧ t.fb.pixel 0 0 = false) ∧
    (∃ t, exec (.drw 0 0 0) State.reset = .next t ∧ ¬ ∃ c r, State.reset.fb.pixel c r = true ∧ t.fb.pixel c r = false) := by
  refine ⟨by decide, ⟨_, rfl, by decide, by decide⟩, ⟨_, rfl, ?_⟩⟩
  rintro ⟨c, r, h, _⟩
  simp [State.reset, FrameBuffer.pixel] at h

/-- A sprite drawn twice on a clear screen: the hypotheses of both statements on it. -/
theorem witness_DrawingTwiceRestoresTheScreen :
    let s : State := { State.reset with mem := [(0, 0x80)] }
    15 ≤ 15 ∧ (0 : Reg) ≠ vf ∧ (14 : Reg) ≠ vf ∧
    ∃ t u, exec (.drw 0 14 15) s = .next t ∧ exec (.drw 0 14 15) t = .next u := ⟨by decide, by decide, by decide, ⟨_, _, rfl, rfl⟩⟩

/-- On a screen set under the sprite (notes/assumptions/27.md). -/
theorem witness_SecondDrawCollidesWheneverTheSpriteHasABit :
    let s : State := { State.reset with fb := fullScreen, mem := [(0, 0x80)] }
    1 ≤ 15 ∧ (0 : Reg) ≠ vf ∧ (∃ r, r < 1 ∧ s.memRead (s.i.toNat + r) ≠ 0) ∧
    ∃ t u, exec (.drw 0 0 1) s = .next t ∧ exec (.drw 0 0 1) t = .next u :=
  ⟨by decide, by decide, ⟨0, by decide, by decide⟩, ⟨_, _, rfl, rfl⟩⟩

theorem witness_CallPushesTheReturnAddress : State.reset.sp.val < 16 ∧ (withDepth 15 0x202).sp.val < 16 := by decide
theorem witness_RetPopsTheReturnAddress :
    (withDepth 1 0x202).sp.val = (0 : Fin 16).val + 1 ∧ (withDepth 16 0x202).sp.val = (15 : Fin 16).val + 1 := by decide
theorem witness_ReturnResumesAfterTheCall : (withDepth 15 0x202).sp.val < 16 := by decide
theorem witness_PushAndPopAreALifo :
    State.reset.push 0xFFFF ≠ .error .stackOverflow ∧ (withDepth 16 0).push 0xFFFF = .error .stackOverflow ∧
    State.reset.pop = .error .stackUnderflow ∧ (withDepth 15 0).sp.val < 16 ∧ (withDepth 16 0).sp.val = (15 : Fin 16).val + 1 :=
  ⟨nofun, rfl, rfl, by decide, by decide⟩

/-- Both cases of x: another register, and VF under each order. -/
theorem witness_ArithmeticWritesResultAndFlag :
    (14 : Reg) ≠ vf ∧ (15 : Reg) = vf ∧ State.reset.params.vfOrder = .resultLast ∧ flagLastParams.vfOrder = .flagLast := by decide

/-- A memory with listed bytes, for the four statements about memory. -/
def listed : State := withBytes State.reset 0xFFE [1, 0, 2]

theorem witness_BcdStoresThreeDigits : listed.mem.wf := by decide
theorem witness_StoreRegistersWritesTheRange : listed.mem.wf ∧ (15 : Reg).val ≤ (15 : Reg).val ∧ (0 : Reg).val ≤ (0 : Reg).val := by
  decide
theorem witness_LoadRegistersReadsTheRange : (15 : Reg).val ≤ (15 : Reg).val ∧ (0 : Reg).val ≤ (0 : Reg).val := by decide
theorem witness_GlyphOfADigitIsItsFiveFontBytes : (withRegs [(1, 15)]).mem.wf ∧ ((withRegs [(1, 15)]).reg 1).toNat = (15 : Fin 16).val ∧
    ∃ t, exec (.ldF 1) (withRegs [(1, 15)]).loadFont = .next t := ⟨by decide, by decide, ⟨_, rfl⟩⟩

/-- The last key and the first value above it. -/
theorem witness_KeySkipsTestTheLatch :
    ((withRegs [(1, 15)]).reg 1).toNat = (15 : Key).val ∧ ((withRegs [(1, 16)]).reg 1).toNat > 15 := by decide

/-- `Edge` with a key held; `Level` with none; `Level` with one. -/
theorem witness_KeyWaitEntry :
    (withKey 15).params.keyTrigger = .edge ∧ (∀ k : Key, ({ State.reset with params := levelParams } : State).keys[k.val] = false) ∧
    ({ withKey 15 with params := levelParams } : State).params.keyTrigger = .level ∧
    (∃ k : Key, ({ withKey 15 with params := levelParams } : State).keys[k.val] = true) := by
  refine ⟨rfl, ?_, rfl, ⟨15, rfl⟩⟩
  intro k; simp [State.reset]

theorem witness_KeyWaitPollCapturesAQualifyingKey :
    (waiting.mode = .awaitKey ∧ ∀ k : Key, ¬ Qualifies waiting k) ∧
    ((waiting.setKeys (oneKey 15)).mode = .awaitKey ∧ ∃ k : Key, Qualifies (waiting.setKeys (oneKey 15)) k) :=
  ⟨⟨rfl, witness_ModeTransitions_wait.1.2.1⟩, ⟨rfl, ⟨15, rfl, fun _ => rfl⟩⟩⟩

theorem witness_EveryQualifyingKeyIsCapturedForSomeDraw : Qualifies (waiting.setKeys ((oneKey 4).set 9 true)) 9 := ⟨rfl, fun _ => rfl⟩

theorem witness_TickDecrementsBothTimersToAFloor :
    (State.reset.setDt 1).dt.toNat > 0 ∧ State.reset.dt.toNat = 0 ∧ (State.reset.setSt 255).st.toNat > 0 ∧ State.reset.st.toNat = 0 := by
  decide

theorem witness_ReadPortsReturnAndChangeNothing : (State.reset.setSt 1).st ≠ 0 ∧ State.reset.st = 0 := by decide

theorem witness_LoadFontWritesTheEightyBytes : listed.mem.wf := by decide

/-- The longest program, one byte more, and none. -/
theorem witness_LoadProgramCopiesTheBytes :
    listed.mem.wf ∧ (List.replicate 3584 (0x12 : Byte)).length ≤ 3584 ∧ ([] : List Byte).length ≤ 3584 ∧
    (List.replicate 3585 (0x12 : Byte)).length > 3584 := by
  refine ⟨by decide, ?_, ?_, ?_⟩
  · rw [List.length_replicate]
  · decide
  · rw [List.length_replicate]; decide

theorem witness_ResetSetsEveryItem :
    (∃ t, edgeHalt.transact .reset = .next t) ∧ State.reset = State.reset := ⟨⟨_, rfl⟩, rfl⟩

end Sys2Proof.Tests
end

section
/-! PROOFS. A halt writes nothing but the mode, and its status is true of the state it was taken in (spec/00_scope.md R12,
spec/60_exceptions.md R234): once for the operation `raise`, once for the handlers, then for the step. -/

namespace Sys2Proof.Machine

/-- The condition of `UnknownOpcode(w, pc)` (R232) holds wherever the fetched word has no row. -/
theorem State.explains_unknownOpcode {s : State} {w : Word} {r : Reject} (hf : s.fetch = .ok w) (hd : decodeWord w = .error r) :
    s.explains (.unknownOpcode w s.pc) :=
  ⟨rfl, (State.fetch_ok hf).1, decodeWord_error hd ▸ hd⟩

theorem raise_halts_precisely {s t : State} {g f : FatalStatus} (hg : s.explains g) (h : raise g s = .next t)
    (ht : t.mode = .halted f) : t = s.setMode (.halted f) ∧ s.explains f := by
  cases h
  cases ht
  exact ⟨rfl, hg⟩

theorem exec_halts_precisely {i : Instr} {s t : State} {f : FatalStatus} (hm : s.mode = .run) (h : exec i s = .next t)
    (ht : t.mode = .halted f) : t = s.setMode (.halted f) ∧ s.explains f := by
  obtain ⟨hmode, -, -⟩ | ⟨g, rfl, hg, -, -⟩ | ⟨x, -, rfl⟩ := exec_next_cases h
  · rw [hmode, hm] at ht
    cases ht
  · exact raise_halts_precisely hg rfl ht
  · cases ht

/-- Settles O11: of the ways a `cycle()` can go, the two raises and the handler are the ones a running core has, and each halts
precisely. -/
theorem haltEntryIsPrecise : Obligations.HaltEntryIsPrecise := by
  intro s t f hm (h : s.cycle = .next t) ht
  obtain ⟨g, hg, -⟩ | ⟨hw, -⟩ | ⟨-, hpc, hc⟩ | ⟨w, r, -, hf, hd, hc⟩ | ⟨w, i, -, -, -, hc⟩ := s.cycle_cases
  · rw [hm] at hg
    cases hg
  · rw [hm] at hw
    cases hw
  · exact raise_halts_precisely (g := .outOfBounds) hpc (hc ▸ h) ht
  · exact raise_halts_precisely (State.explains_unknownOpcode hf hd) (hc ▸ h) ht
  · exact exec_halts_precisely hm (hc ▸ h) ht

end Sys2Proof.Machine
end

section
/-! PROOFS. The frame of every instruction: one rule per update of the state (what a frame must name for the update to stay inside it),
the footprint each instruction has by its own rule, and that an instruction, and a step, changes nothing outside it. -/

namespace Sys2Proof.Machine

/-! ## One rule per update -/

/-- A write leaves the byte read at every other address, in any list of cells: the canonical form is not needed for that. -/
theorem Memory.read_write_ne (m : Memory) {a a' : Nat} (b : Byte) (h : a' ≠ a) : (m.write a b).read a' = m.read a' := by
  have hput (m : Memory) : (m.put a b).read a' = m.read a' := by
    unfold Memory.put
    split
    · rfl
    · rw [Memory.read_cons, if_neg h]
  induction m with
  | nil => exact hput []
  | cons d rest ih =>
    simp only [Memory.write]
    split
    · exact hput _
    · split
      next hd => rw [hput, Memory.read_cons, if_neg (hd ▸ h)]
      next => rw [Memory.read_cons, Memory.read_cons, ih]

/-- The frame of an update or a run of updates, and that memory stays in the canonical form. -/
structure Within (s t : State) (c : Changes) : Prop extends Frame s t c where
  canonical : s.mem.wf → t.mem.wf

theorem Within.refl (s : State) (c : Changes) : Within s s c :=
  ⟨⟨fun _ _ => rfl, fun _ => rfl, fun _ _ => rfl, fun _ => ⟨rfl, rfl⟩, fun _ => rfl, fun _ => rfl, fun _ _ _ => rfl,
    fun _ => ⟨rfl, rfl⟩, fun _ => rfl, fun _ => rfl, rfl, rfl⟩, id⟩

section
variable {s t : State} {c : Changes} (h : Within s t c)
include h

theorem Within.setPc (a : Word) : Within s (t.setPc a) c := { h with }

theorem Within.setReg {x : Reg} (hx : x ∈ c.regs) (b : Byte) : Within s (t.setReg x b) c :=
  { h with regs := fun r hr => (State.reg_setReg_ne t b (fun e : r = x => hr (e ▸ hx))).trans (h.regs r hr) }

theorem Within.setI (hc : c.index = true) (a : Word) : Within s (t.setI a) c :=
  { h with index := fun e => by simp [hc] at e }

theorem Within.memWrite {a : Nat} (ha : dataAddr a ∈ c.stored) (b : Byte) : Within s (t.memWrite a b) c :=
  { h with
    memory := fun a' h' =>
      (Memory.read_write_ne _ b (fun e : dataAddr a' = dataAddr a => h' (e ▸ ha))).trans (h.memory a' h')
    canonical := fun hs => State.memWrite_wf a b (h.canonical hs) }

theorem Within.setStack (hc : c.stack = true) (k : Vector Word 16) (d : Fin 17) : Within s (t.setStack k d) c :=
  { h with stack := fun e => by simp [hc] at e }

theorem Within.setDt (hc : c.dt = true) (b : Byte) : Within s (t.setDt b) c :=
  { h with dt := fun e => by simp [hc] at e }

theorem Within.setSt (hc : c.st = true) (b : Byte) : Within s (t.setSt b) c :=
  { h with st := fun e => by simp [hc] at e }

theorem Within.setFb (hc : c.screen = true) (f : FrameBuffer) : Within s (t.setFb f) c :=
  { h with screen := fun e => by simp [hc] at e }

theorem Within.setKeyWait (hc : c.keyWait = true) (x : Reg) (p : Vector Bool 16) : Within s (t.setKeyWait x p) c :=
  { h with keyWait := fun e => by simp [hc] at e }

theorem Within.setMode (hc : c.mode = true) (m : Mode) : Within s (t.setMode m) c :=
  { h with mode := fun e => by simp [hc] at e }

theorem Within.useDraw (hc : c.draws = true) : Within s t.useDraw c :=
  { h with draws := fun e => by simp [hc] at e }

theorem Within.writeFlagResult {x : Reg} (hx : x ∈ c.regs) (hvf : vf ∈ c.regs) (flag result : Byte) :
    Within s (t.writeFlagResult x flag result) c := by
  unfold State.writeFlagResult
  split
  · exact (h.setReg hvf _).setReg hx _
  · exact (h.setReg hx _).setReg hvf _

theorem Within.storeFirst {k : Nat} (hk : ∀ j < k, dataAddr (t.indexAddr j) ∈ c.stored) : Within s (t.storeFirst k) c := by
  induction k with
  | zero => exact h
  | succ k ih =>
    refine (ih fun j hj => hk j (by omega)).memWrite ?_ _
    rw [State.indexAddr, State.storeFirst_i]
    exact hk k (by omega)

theorem Within.loadFirst {k : Nat} (hk : ∀ j < k, Fin.ofNat 16 j ∈ c.regs) : Within s (t.loadFirst k) c := by
  induction k with
  | zero => exact h
  | succ k ih => exact (ih fun j hj => hk j (by omega)).setReg (hk k (by omega)) _

end

/-! ## The handlers that end in more than one way, each as one equation -/

theorem execRet_eq (s : State) : execRet s =
    if h : 0 < s.sp.val then
      .next ((s.setStack s.stack ⟨s.sp.val - 1, by omega⟩).setPc (s.stack[s.sp.val - 1]'(by omega)))
    else raise .stackUnderflow s := by
  unfold execRet State.pop
  split <;> rfl

theorem execCall_eq (nnn : Addr12) (s : State) : execCall nnn s =
    if h : s.sp.val < 16 then
      .next ((s.setStack (s.stack.set s.sp.val s.nextPc) ⟨s.sp.val + 1, by omega⟩).setPc (zextAddr nnn))
    else raise .stackOverflow s := by
  unfold execCall State.push
  split <;> rfl

/-- Ex9E and ExA1, for the condition `c` of their skip. -/
theorem keySkip_eq (x : Reg) (c : Key → Bool) (s : State) :
    orRaise s ((s.keyIndex (s.reg x)).map (fun k => s.skipIf (c k))) =
      if h : (s.reg x).toNat < 16 then .next (s.skipIf (c ⟨(s.reg x).toNat, h⟩))
      else raise (.keyIndexOutOfRange (s.reg x) s.pc) s := by
  unfold State.keyIndex
  split <;> rfl

/-- A key skip moves `pc` alone, or halts. -/
theorem keySkip_next {x : Reg} {c : Key → Bool} {s t : State}
    (h : orRaise s ((s.keyIndex (s.reg x)).map (fun k => s.skipIf (c k))) = .next t) :
    (∃ b, t = s.skipIf b) ∨ ∃ f, t = s.setMode (.halted f) := by
  rw [keySkip_eq] at h
  split at h <;> cases h
  · exact .inl ⟨_, rfl⟩
  · exact .inr ⟨_, rfl⟩

/-- What Fx0A can do: wait, or capture a key held now. -/
theorem State.keyWaitWith_cases (s : State) (x : Reg) (kd : Key) :
    s.keyWaitWith x kd = s.enterKeyWait x ∨ ∃ k, s.keyWaitWith x kd = (s.captureKey x k).useDraw := by
  unfold State.keyWaitWith
  split
  · exact .inl rfl
  · split
    · exact .inl rfl
    · exact .inr ⟨_, rfl⟩

/-! ## The footprint -/

/-- The reduced addresses of the first n accesses relative to `I` (R196). -/
def State.indexed (s : State) (n : Nat) : List Nat := (List.range n).map (fun k => dataAddr (s.indexAddr k))

theorem State.mem_indexed (s : State) {n j : Nat} (h : j < n) : dataAddr (s.indexAddr j) ∈ s.indexed n :=
  List.mem_map_of_mem (List.mem_range.mpr h)

/-- The most an instruction changes, by its own rule: the registers, timers and memory it names, the stack for 2nnn and 00EE, the mode
where it can halt or wait. -/
def footprint (s : State) : Instr → Changes
  | .jp _ | .jpV0 _ | .seByte _ _ | .sneByte _ _ | .seReg _ _ | .sneReg _ _ => {}
  | .cls => { screen := true }
  | .ret | .call _ => { stack := true, mode := true }
  | .ldByte x _ | .addByte x _ | .ldReg x _ | .orReg x _ | .andReg x _ | .xorReg x _ | .ldVxDt x => { regs := [x] }
  | .addReg x _ | .subReg x _ | .shr x _ | .subnReg x _ | .shl x _ => { regs := [x, vf] }
  | .ldI _ | .addI _ | .ldF _ => { index := true }
  | .rnd x _ => { regs := [x], draws := true }
  | .drw _ _ _ => { regs := [vf], screen := true }
  | .skp _ | .sknp _ => { mode := true }
  | .ldVxK x => { regs := [x], keyWait := true, mode := true, draws := true }
  | .ldDtVx _ => { dt := true }
  | .ldStVx _ => { st := true }
  | .ldB _ => { stored := s.indexed 3 }
  | .storeRegs x => { stored := s.indexed (x.val + 1) }
  | .loadRegs x => { regs := (List.finRange 16).filter (· ≤ x) }

/-- No instruction changes anything outside its footprint, or breaks the canonical form. -/
theorem exec_within {i : Instr} {s t : State} (h : exec i s = .next t) : Within s t (footprint s i) := by
  have start := Within.refl s (footprint s i)
  cases i
  case ret =>
    rw [exec, execRet_eq] at h
    split at h <;> cases h
    · exact (start.setStack rfl _ _).setPc _
    · exact start.setMode rfl _
  case call nnn =>
    rw [exec, execCall_eq] at h
    split at h <;> cases h
    · exact (start.setStack rfl _ _).setPc _
    · exact start.setMode rfl _
  case skp x | sknp x =>
    obtain ⟨b, rfl⟩ | ⟨f, rfl⟩ := keySkip_next h
    · exact start.setPc _
    · exact start.setMode rfl _
  case ldVxK x =>
    cases h
    obtain h | ⟨k, h⟩ := s.keyWaitWith_cases x s.keyDraw <;> rw [h]
    · exact (start.setKeyWait rfl _ _).setMode rfl _
    · exact ((start.setReg (List.mem_singleton_self x) _).setPc _).useDraw rfl
  all_goals cases h
  case jp | jpV0 | seByte | sneByte | seReg | sneReg => exact start.setPc _
  case cls => exact (start.setFb rfl _).setPc _
  case ldByte x _ | addByte x _ | ldReg x _ | orReg x _ | andReg x _ | xorReg x _ | ldVxDt x =>
    exact (start.setReg (List.mem_singleton_self x) _).setPc _
  case addReg x _ | subReg x _ | shr x _ | subnReg x _ | shl x _ =>
    exact (start.writeFlagResult (x := x) (by simp [footprint]) (by simp [footprint]) _ _).setPc _
  case ldI | addI | ldF => exact (start.setI rfl _).setPc _
  case rnd x _ => exact ((start.setReg (List.mem_singleton_self x) _).setPc _).useDraw rfl
  case drw => exact ((start.setFb rfl _).setReg (List.mem_singleton_self vf) _).setPc _
  case ldDtVx => exact (start.setDt rfl _).setPc _
  case ldStVx => exact (start.setSt rfl _).setPc _
  case ldB x =>
    refine (((start.memWrite ?_ _).memWrite ?_ _).memWrite ?_ _).setPc _
    · exact s.mem_indexed (j := 0) (by decide)
    · exact s.mem_indexed (j := 1) (by decide)
    · exact s.mem_indexed (j := 2) (by decide)
  case storeRegs x => exact (start.storeFirst fun j hj => s.mem_indexed hj).setPc _
  case loadRegs x =>
    refine (start.loadFirst fun j hj => ?_).setPc _
    simp only [footprint, List.mem_filter, List.mem_finRange, true_and, decide_eq_true_eq]
    exact Fin.le_def.mpr (by simp only [Fin.val_ofNat]; omega)

theorem exec_frame {i : Instr} {s t : State} (h : exec i s = .next t) : Frame s t (footprint s i) := (exec_within h).toFrame

/-! ## What the footprints say -/

theorem footprint_screen {s : State} {i : Instr} (h : (footprint s i).screen = true) :
    i = .cls ∨ ∃ x y n, i = .drw x y n := by
  cases i <;> simp_all [footprint]

theorem footprint_stack {s : State} {i : Instr} (h : (footprint s i).stack = true) : i = .ret ∨ ∃ nnn, i = .call nnn := by
  cases i <;> simp_all [footprint]

theorem vf_mem_footprint_regs {s : State} {i : Instr} (h : vf ∈ (footprint s i).regs) : MayWriteVf i := by
  cases i
  case loadRegs x => exact le_antisymm (Fin.le_last x) (by simpa [footprint] using h)
  all_goals simp_all [footprint, MayWriteVf]

/-! ## The step -/

/-- What a `cycle()` changes in AwaitKey, and where it halts without running an instruction. -/
def pollFootprint (s : State) : Changes := { regs := [s.kwReg], keyWait := true, mode := true, draws := true }

/-- What a step can do: run the instruction of the fetched word in Run, or poll, halt or stay halted. -/
theorem step_cases {s t : State} (h : step s = .next t) :
    (∃ w i, s.mode = .run ∧ s.fetch = .ok w ∧ decodeWord w = .ok i ∧ exec i s = .next t) ∨
    (∃ f, s.mode = .run ∧ s.explains f ∧ t = s.setMode (.halted f)) ∨
    (s.mode = .awaitKey ∧ t = s.keyWaitPoll) ∨
    (∃ f, s.mode = .halted f ∧ t = s) := by
  change s.cycle = .next t at h
  obtain ⟨f, hm, hc⟩ | ⟨hm, hc⟩ | ⟨hm, hpc, hc⟩ | ⟨w, r, hm, hf, hd, hc⟩ | ⟨w, i, hm, hf, hd, hc⟩ := s.cycle_cases
  all_goals rw [hc] at h
  · cases h
    exact .inr (.inr (.inr ⟨f, hm, rfl⟩))
  · cases h
    exact .inr (.inr (.inl ⟨hm, rfl⟩))
  · cases h
    exact .inr (.inl ⟨.outOfBounds, hm, hpc, rfl⟩)
  · cases h
    exact .inr (.inl ⟨_, hm, State.explains_unknownOpcode hf hd, rfl⟩)
  · exact .inl ⟨w, i, hm, hf, hd, h⟩

theorem keyWaitPoll_within (s : State) : Within s s.keyWaitPoll (pollFootprint s) := by
  have start := Within.refl s (pollFootprint s)
  rw [State.keyWaitPoll]
  obtain ⟨-, h⟩ | ⟨k, -, h⟩ := s.pollWith_cases s.keyDraw <;> rw [h]
  · exact start.setKeyWait rfl _ _
  · exact (((start.setReg (List.mem_singleton_self _) _).setPc _).setMode rfl _).useDraw rfl

/-- A step runs a fetched instruction, or changes nothing outside the poll's footprint. -/
theorem step_exec_or_frame {s t : State} (h : step s = .next t) :
    (∃ w i, s.mode = .run ∧ s.fetch = .ok w ∧ decodeWord w = .ok i ∧ exec i s = .next t) ∨
    Frame s t (pollFootprint s) := by
  obtain hexec | ⟨f, -, -, rfl⟩ | ⟨-, rfl⟩ | ⟨f, -, rfl⟩ := step_cases h
  · exact .inl hexec
  · exact .inr ((Within.refl s _).setMode rfl _).toFrame
  · exact .inr (keyWaitPoll_within s).toFrame
  · exact .inr (Within.refl t _).toFrame

/-! ## The host's transactions -/

/-- What a host transaction can do to the state (R42). -/
theorem transact_cases {s t : State} {tr : Transaction} (h : s.transact tr = .next t) :
    (tr = .cycle ∧ step s = .next t) ∨ t = s ∨ t = s.tickTimers ∨ (∃ k, t = s.setKeys k) ∨
    (∃ a bytes, t = s.writeBytes a bytes) ∨ t = reinit s := by
  cases tr with
  | cycle => exact .inl ⟨rfl, h⟩
  | framebuffer | soundActive => cases h; exact .inr (.inl rfl)
  | tickTimers => cases h; exact .inr (.inr (.inl rfl))
  | setKey k p => cases h; exact .inr (.inr (.inr (.inl ⟨_, rfl⟩)))
  | loadFont => cases h; exact .inr (.inr (.inr (.inr (.inl ⟨_, _, rfl⟩))))
  | loadProgram bytes =>
    change s.loadProgram bytes = .next t at h
    unfold State.loadProgram at h
    split at h <;> cases h
    exact .inr (.inr (.inr (.inr (.inl ⟨_, _, rfl⟩))))
  | reset => cases h; exact .inr (.inr (.inr (.inr (.inr rfl))))

end Sys2Proof.Machine
end

section
/-! PROOFS. Which instructions change the latch, the screen, VF and the timers (spec/10_state.md R26, R30, R37, R38), read off the frames. -/

namespace Sys2Proof.Machine

/-- Settles O18: every frame keeps the latch and the parameters. -/
theorem stepNeverWritesTheInputLatch : Obligations.StepNeverWritesTheInputLatch := by
  intro s t h
  obtain ⟨_, _, -, -, -, he⟩ | hf := step_exec_or_frame h
  · exact ⟨(exec_frame he).keys, (exec_frame he).params⟩
  · exact ⟨hf.keys, hf.params⟩

/-- Settles O19: a changed cell is outside the poll's frame, and inside the frame of 00E0 and Dxyn alone. -/
theorem screenChangesOnlyByClearAndDraw : Obligations.ScreenChangesOnlyByClearAndDraw := by
  rintro s t h ⟨c, r, hne⟩
  obtain ⟨w, i, hm, hf, hd, he⟩ | hf := step_exec_or_frame h
  · refine ⟨hm, w, i, hf, hd, footprint_screen (s := s) ?_⟩
    by_contra hs
    exact hne ((exec_frame he).screen (by simpa using hs) c r)
  · exact absurd (hf.screen rfl c r) hne

/-- Settles O21: by the registers in the footprint. -/
theorem otherInstructionsLeaveVfUnchanged : Obligations.OtherInstructionsLeaveVfUnchanged :=
  fun _ _ _ hi h => (exec_frame h).regs vf fun hvf => hi (vf_mem_footprint_regs hvf)

/-- An instruction leaves a timer as it is or is the timer's load. -/
theorem exec_timers {i : Instr} {s t : State} (h : exec i s = .next t) :
    (t.dt = s.dt ∨ ∃ x, i = .ldDtVx x ∧ t.dt = s.reg x) ∧ (t.st = s.st ∨ ∃ x, i = .ldStVx x ∧ t.st = s.reg x) := by
  have hf := exec_frame h
  cases i
  case ldDtVx x =>
    cases h
    exact ⟨.inr ⟨x, rfl, rfl⟩, .inl rfl⟩
  case ldStVx x =>
    cases h
    exact ⟨.inl rfl, .inr ⟨x, rfl, rfl⟩⟩
  all_goals exact ⟨.inl (hf.dt rfl), .inl (hf.st rfl)⟩

theorem step_timers {s t : State} (h : step s = .next t) :
    (t.dt = s.dt ∨ s.mode = .run ∧ ∃ w x, s.fetch = .ok w ∧ decodeWord w = .ok (.ldDtVx x) ∧ t.dt = s.reg x) ∧
    (t.st = s.st ∨ s.mode = .run ∧ ∃ w x, s.fetch = .ok w ∧ decodeWord w = .ok (.ldStVx x) ∧ t.st = s.reg x) := by
  obtain ⟨w, i, hm, hf, hd, he⟩ | hf := step_exec_or_frame h
  · obtain ⟨hdt, hst⟩ := exec_timers he
    exact ⟨hdt.imp_right fun ⟨x, hi, hx⟩ => ⟨hm, w, x, hf, hi ▸ hd, hx⟩,
      hst.imp_right fun ⟨x, hi, hx⟩ => ⟨hm, w, x, hf, hi ▸ hd, hx⟩⟩
  · exact ⟨.inl (hf.dt rfl), .inl (hf.st rfl)⟩

theorem tick_toNat (b : Byte) : (tick b).toNat = b.toNat - 1 := by
  unfold tick
  split
  · bv_omega
  · omega

theorem transact_timers_le {s t : State} {tr : Transaction} (htr : tr ≠ .cycle) (h : s.transact tr = .next t) :
    t.dt.toNat ≤ s.dt.toNat ∧ t.st.toNat ≤ s.st.toNat := by
  obtain ⟨rfl, -⟩ | rfl | rfl | ⟨k, rfl⟩ | ⟨a, bytes, rfl⟩ | rfl := transact_cases h
  · exact absurd rfl htr
  · exact ⟨le_rfl, le_rfl⟩
  · exact ⟨(tick_toNat s.dt).trans_le (Nat.sub_le _ _), (tick_toNat s.st).trans_le (Nat.sub_le _ _)⟩
  · exact ⟨le_rfl, le_rfl⟩
  · obtain ⟨m, hm⟩ := s.writeBytes_eq_setMem a bytes
    rw [hm]
    exact ⟨le_rfl, le_rfl⟩
  · exact ⟨Nat.zero_le _, Nat.zero_le _⟩

/-- Settles O20: a step by the frames, the other transactions one by one. -/
theorem timersAreOnlyLoadedOrDecremented : Obligations.TimersAreOnlyLoadedOrDecremented := by
  refine ⟨fun _ _ => step_timers, fun _ _ _ => transact_timers_le, fun s t h => ?_⟩
  cases h
  exact ⟨tick_toNat s.dt, tick_toNat s.st⟩

end Sys2Proof.Machine
end

section
/-! PROOFS. The invariant of every run (spec/10_state.md R24): what each of its parts needs of an instruction, then the instruction, the
step and the host's transactions. -/

namespace Sys2Proof.Machine

/-! ## The invariant's parts -/

/-- What explains a status is read from `pc`, `SP` and the registers alone. -/
theorem State.explains_congr {s t : State} {f : FatalStatus} (hpc : t.pc = s.pc) (hsp : t.sp = s.sp) (hv : t.v = s.v)
    (h : s.explains f) : t.explains f := by
  cases f with
  | outOfBounds => exact lt_of_lt_of_eq h hpc.symm
  | unknownOpcode raw pc => exact h.imp_left (·.trans hpc.symm)
  | stackOverflow => exact (congrArg Fin.val hsp).trans h
  | stackUnderflow => exact (congrArg Fin.val hsp).trans h
  | keyIndexOutOfRange b pc =>
    obtain ⟨rfl, hb, x, hx⟩ := h
    exact ⟨hpc.symm, hb, x, (State.reg_congr hv x).trans hx⟩

/-- A change of memory (in canonical form), of a timer, of the latches or of the screen keeps the invariant. -/
theorem State.Inv.congr {s t : State} (hs : s.Inv) (hmem : t.mem.wf) (hpc : t.pc = s.pc) (hstack : t.stack = s.stack)
    (hsp : t.sp = s.sp) (hv : t.v = s.v) (hmode : t.mode = s.mode) : t.Inv where
  memory := hmem
  pcBound := hpc ▸ hs.pcBound
  returns := by rw [hstack, hsp]; exact hs.returns
  mode := by
    have hfits := hs.mode
    unfold State.modeFits at hfits ⊢
    rw [hmode]
    split at hfits
    · trivial
    · rwa [hpc]
    · exact State.explains_congr hpc hsp hv hfits

/-- Taking a status that is true of the state. -/
theorem State.Inv.halted {s : State} (hs : s.Inv) {f : FatalStatus} (hf : s.explains f) : (s.setMode (.halted f)).Inv :=
  ⟨hs.memory, hs.pcBound, hs.returns, State.explains_congr (s := s) rfl rfl rfl hf⟩

theorem State.modeFits_of_run {s : State} (h : s.mode = .run) : s.modeFits := by
  rw [State.modeFits, h]
  trivial

/-! ## `pc`: the bounds of R24 -/

theorem State.nextPc_toNat_le {s : State} (h : s.pc ≤ lastFetch) : s.nextPc.toNat ≤ 0x1000 := by
  unfold State.nextPc lastFetch at *
  bv_omega

theorem State.skipPc_toNat_le {s : State} (h : s.pc ≤ lastFetch) : s.skipPc.toNat ≤ 0x1002 := by
  unfold State.skipPc lastFetch at *
  bv_omega

theorem zextAddr_toNat_le (nnn : Addr12) : (zextAddr nnn).toNat ≤ 0xFFF := by
  unfold zextAddr
  bv_omega

theorem zextAddr_add_zextByte_toNat_le (nnn : Addr12) (b : Byte) : (zextAddr nnn + zextByte b).toNat ≤ 0x10FE := by
  unfold zextAddr zextByte
  bv_omega

/-- Where `pc` can be after an instruction: on, past the next word, still there (a halt or a wait), at a target that the instruction
bounds, or at a live return address. -/
theorem exec_pc_cases {i : Instr} {s t : State} (h : exec i s = .next t) :
    t.pc = s.nextPc ∨ t.pc = s.skipPc ∨ t.pc = s.pc ∨ t.pc.toNat ≤ 0x10FE ∨
    ∃ j : Fin 16, j.val < s.sp.val ∧ t.pc = s.stack[j.val] := by
  have skip (c : Bool) : (s.skipIf c).pc = s.nextPc ∨ (s.skipIf c).pc = s.skipPc := by cases c <;> simp
  cases i
  case ret =>
    rw [exec, execRet_eq] at h
    split at h <;> cases h
    next hsp => exact .inr (.inr (.inr (.inr ⟨⟨s.sp.val - 1, by omega⟩, Nat.sub_lt hsp one_pos, rfl⟩)))
    next => exact .inr (.inr (.inl rfl))
  case call nnn =>
    rw [exec, execCall_eq] at h
    split at h <;> cases h
    · exact .inr (.inr (.inr (.inl ((zextAddr_toNat_le nnn).trans (by decide)))))
    · exact .inr (.inr (.inl rfl))
  case skp x | sknp x =>
    obtain ⟨b, rfl⟩ | ⟨f, rfl⟩ := keySkip_next h
    · exact (skip b).imp_right .inl
    · exact .inr (.inr (.inl rfl))
  case ldVxK x =>
    cases h
    obtain h | ⟨k, h⟩ := s.keyWaitWith_cases x s.keyDraw <;> rw [h]
    · exact .inr (.inr (.inl rfl))
    · exact .inl rfl
  all_goals cases h
  case jp nnn => exact .inr (.inr (.inr (.inl ((zextAddr_toNat_le nnn).trans (by decide)))))
  case jpV0 nnn => exact .inr (.inr (.inr (.inl (zextAddr_add_zextByte_toNat_le nnn _))))
  case seByte | sneByte | seReg | sneReg => exact (skip _).imp_right .inl
  all_goals exact .inl rfl

theorem exec_pcBound {i : Instr} {s t : State} (hs : s.Inv) (hpc : s.pc ≤ lastFetch) (h : exec i s = .next t) :
    t.pc.toNat ≤ 0x10FE := by
  obtain e | e | e | hle | ⟨j, hj, e⟩ := exec_pc_cases h
  · exact e ▸ (State.nextPc_toNat_le hpc).trans (by decide)
  · exact e ▸ (State.skipPc_toNat_le hpc).trans (by decide)
  · exact e ▸ hs.pcBound
  · exact hle
  · exact e ▸ (hs.returns j hj).trans (by decide)

/-! ## The stack -/

/-- The live entries after an instruction: 2nnn pushes the address of the next word, 00EE drops one, the others leave the stack. -/
theorem exec_returns {i : Instr} {s t : State} (hs : s.Inv) (hpc : s.pc ≤ lastFetch) (h : exec i s = .next t) :
    ∀ j : Fin 16, j.val < t.sp.val → (t.stack[j.val]).toNat ≤ 0x1000 := by
  by_cases hst : (footprint s i).stack = true
  · obtain rfl | ⟨nnn, rfl⟩ := footprint_stack hst
    · rw [exec, execRet_eq] at h
      split at h <;> cases h
      · exact fun j hj => hs.returns j (hj.trans_le (Nat.sub_le _ _))
      · exact hs.returns
    · rw [exec, execCall_eq] at h
      split at h <;> cases h
      · intro j hj
        simp only [State.setPc_stack, State.setPc_sp, State.setStack_stack, State.setStack_sp, Vector.getElem_set] at hj ⊢
        split
        · exact State.nextPc_toNat_le hpc
        · exact hs.returns j (by omega)
      · exact hs.returns
  · obtain ⟨hstack, hsp⟩ := (exec_frame h).stack (by simpa using hst)
    rw [hstack, hsp]
    exact hs.returns

/-! ## The instruction, the step and the transactions -/

theorem exec_keeps_inv {i : Instr} {s t : State} (hs : s.Inv) (hm : s.mode = .run) (hpc : s.pc ≤ lastFetch)
    (h : exec i s = .next t) : t.Inv := by
  obtain ⟨hmode, -, -⟩ | ⟨f, rfl, hf, -, -⟩ | ⟨x, -, rfl⟩ := exec_next_cases h
  · exact ⟨(exec_within h).canonical hs.memory, exec_pcBound hs hpc h, exec_returns hs hpc h,
      State.modeFits_of_run (hmode.trans hm)⟩
  · exact hs.halted hf
  · exact ⟨hs.memory, hs.pcBound, hs.returns, hpc⟩

/-- A poll leaves a waiting core where it is, or captures a key and moves past the Fx0A. -/
theorem keyWaitPoll_keeps_inv {s : State} (hs : s.Inv) (hm : s.mode = .awaitKey) : s.keyWaitPoll.Inv := by
  have hpc : s.pc ≤ lastFetch := by
    have hfits := hs.mode
    rwa [State.modeFits, hm] at hfits
  rw [State.keyWaitPoll]
  obtain ⟨-, h⟩ | ⟨k, -, h⟩ := s.pollWith_cases s.keyDraw <;> rw [h]
  · exact hs.congr hs.memory rfl rfl rfl rfl rfl
  · exact ⟨hs.memory, (State.nextPc_toNat_le hpc).trans (by decide), hs.returns, trivial⟩

/-- Settles O16: the instruction by the parts above; a raise holds a status true of its state; a poll stays or moves on. -/
theorem stepKeepsInvariant : Obligations.StepKeepsInvariant := by
  intro s t hs h
  obtain ⟨w, i, hm, hf, -, he⟩ | ⟨f, -, hf, rfl⟩ | ⟨hm, rfl⟩ | ⟨f, -, rfl⟩ := step_cases h
  · exact exec_keeps_inv hs hm (State.fetch_ok hf).1 he
  · exact hs.halted hf
  · exact keyWaitPoll_keeps_inv hs hm
  · exact hs

/-- What `reset()` leaves meets the invariant, whatever state it is applied to. -/
theorem reinit_inv (s : State) : (reinit s).Inv where
  memory := Memory.wf_nil
  pcBound := by simp [reinit, State.reset]
  returns := fun j hj => absurd hj (Nat.not_lt_zero _)
  mode := trivial

/-- Settles O15: the reset state is what `reset()` makes of itself. -/
theorem resetStateMeetsInvariant : Obligations.ResetStateMeetsInvariant := reinit_inv State.reset

theorem transact_keeps_inv {s t : State} {tr : Transaction} (hs : s.Inv) (h : s.transact tr = .next t) : t.Inv := by
  obtain ⟨-, hstep⟩ | rfl | rfl | ⟨k, rfl⟩ | ⟨a, bytes, rfl⟩ | rfl := transact_cases h
  · exact stepKeepsInvariant s t hs hstep
  · exact hs
  · exact hs.congr hs.memory rfl rfl rfl rfl rfl
  · exact hs.congr hs.memory rfl rfl rfl rfl rfl
  · have hwf := State.writeBytes_wf a bytes hs.memory
    obtain ⟨m, hm⟩ := s.writeBytes_eq_setMem a bytes
    rw [hm] at hwf ⊢
    exact hs.congr hwf rfl rfl rfl rfl rfl
  · exact reinit_inv s

/-- A run of at least one transaction goes through the state the first one answers. -/
theorem runAll_cons_next {s t : State} {tr : Transaction} {rest : List Transaction} (h : s.runAll (tr :: rest) = .next t) :
    ∃ u, s.transact tr = .next u ∧ u.runAll rest = .next t := by
  rw [State.runAll] at h
  split at h
  next u hu => exact ⟨u, hu, h⟩
  all_goals cases h

/-- Settles O17, by induction on the run. -/
theorem everyRunOfTransactionsKeepsInvariant : Obligations.EveryRunOfTransactionsKeepsInvariant := by
  intro run
  induction run with
  | nil =>
    intro s t hs h
    cases h
    exact hs
  | cons tr rest ih =>
    intro s t hs h
    obtain ⟨u, hu, hrest⟩ := runAll_cons_next h
    exact ih u t (transact_keeps_inv hs hu) hrest

end Sys2Proof.Machine
end

section
/-! PROOFS. What no step shows (spec/10_state.md R29, R36, R40): the sound timer and the dead stack entries. Both statements compare a run
with one from a state in which these parts are others; `State.withHidden` puts others in, and each operation is shown not to see it. -/

namespace Sys2Proof.Machine

/-- The state with another sound timer and another stack. -/
def State.withHidden (s : State) (b : Byte) (k : Vector Word 16) : State := { s with st := b, stack := k }

/-- The stack `k` has the live entries of the state. -/
def State.SameLive (s : State) (k : Vector Word 16) : Prop := ∀ j : Fin 16, j.val < s.sp.val → k[j.val] = s.stack[j.val]

/-! ## The operations do not see the hidden parts -/

section
variable (s : State) (b : Byte) (k : Vector Word 16)

theorem writeFlagResult_withHidden (x : Reg) (flag result : Byte) :
    (s.withHidden b k).writeFlagResult x flag result = (s.writeFlagResult x flag result).withHidden b k := by
  simp only [State.writeFlagResult, show (s.withHidden b k).params = s.params from rfl]
  split <;> rfl

theorem storeFirst_withHidden (n : Nat) : (s.withHidden b k).storeFirst n = (s.storeFirst n).withHidden b k := by
  induction n with
  | zero => rfl
  | succ n ih => rw [State.storeFirst, ih]; rfl

theorem loadFirst_withHidden (n : Nat) : (s.withHidden b k).loadFirst n = (s.loadFirst n).withHidden b k := by
  induction n with
  | zero => rfl
  | succ n ih => rw [State.loadFirst, ih]; rfl

theorem xorRows_withHidden (vx vy : Byte) (n : Nat) (acc : FrameBuffer × Bool) :
    xorRows (s.withHidden b k) vx vy n acc = xorRows s vx vy n acc := by
  induction n with
  | zero => rfl
  | succ n ih => rw [xorRows, ih]; rfl

theorem keyWaitWith_withHidden (x : Reg) (kd : Key) :
    (s.withHidden b k).keyWaitWith x kd = (s.keyWaitWith x kd).withHidden b k := by
  simp only [State.keyWaitWith, show (s.withHidden b k).params = s.params from rfl,
    show (s.withHidden b k).keysHeld = s.keysHeld from rfl]
  split
  · rfl
  · split <;> rfl

theorem pollWith_withHidden (kd : Key) : (s.withHidden b k).pollWith kd = (s.pollWith kd).withHidden b k := by
  simp only [State.pollWith, show (s.withHidden b k).qualifying = s.qualifying from rfl]
  split <;> rfl

/-! ## The instructions -/

/-- An answer like `t`, the answer from `s`, when the hidden parts of `s` are `b` and `k`: the same but for the hidden parts, which have
the live entries of `t`, and each of which is that of `t` where it was that of `s`. -/
def AnswersAlike (s t : State) (b : Byte) (k : Vector Word 16) (a : Answer) : Prop :=
  ∃ b' k', a = .next (t.withHidden b' k') ∧ t.SameLive k' ∧ (b = s.st → b' = t.st) ∧ (k = s.stack → k' = t.stack)

variable {s b k}

/-- Where neither hidden part is written. -/
theorem AnswersAlike.of_kept {t : State} {a : Answer} (hk : s.SameLive k) (ha : a = .next (t.withHidden b k))
    (hst : t.st = s.st) (hstack : t.stack = s.stack) (hsp : t.sp = s.sp) : AnswersAlike s t b k a :=
  ⟨b, k, ha, by unfold State.SameLive; rw [hsp, hstack]; exact hk, (·.trans hst.symm), (·.trans hstack.symm)⟩

theorem raise_answersAlike (hk : s.SameLive k) (f : FatalStatus) :
    AnswersAlike s (s.setMode (.halted f)) b k (raise f (s.withHidden b k)) :=
  .of_kept hk rfl rfl rfl rfl

/-- 00EE returns to a live entry, which the two stacks share, and leaves fewer. -/
theorem execRet_answersAlike {t : State} (hk : s.SameLive k) (h : execRet s = .next t) :
    AnswersAlike s t b k (execRet (s.withHidden b k)) := by
  rw [execRet_eq] at h
  rw [execRet_eq]
  split at h <;> cases h
  next hsp =>
    have hpop : k[s.sp.val - 1] = s.stack[s.sp.val - 1] := hk ⟨s.sp.val - 1, by omega⟩ (Nat.sub_lt hsp one_pos)
    refine ⟨b, k, ?_, fun j hj => hk j (hj.trans_le (Nat.sub_le _ _)), id, id⟩
    rw [dif_pos (show 0 < (s.withHidden b k).sp.val from hsp), ← hpop]
    rfl
  next hsp =>
    rw [dif_neg (show ¬ 0 < (s.withHidden b k).sp.val from hsp)]
    exact raise_answersAlike hk _

/-- 2nnn pushes the same entry on both stacks. -/
theorem execCall_answersAlike {t : State} {nnn : Addr12} (hk : s.SameLive k) (h : execCall nnn s = .next t) :
    AnswersAlike s t b k (execCall nnn (s.withHidden b k)) := by
  rw [execCall_eq] at h
  rw [execCall_eq]
  split at h <;> cases h
  next hsp =>
    rw [dif_pos (show (s.withHidden b k).sp.val < 16 from hsp)]
    refine ⟨b, k.set s.sp.val s.nextPc, rfl, fun j hj => ?_, id, fun e => by rw [e]; rfl⟩
    simp only [State.setPc_stack, State.setPc_sp, State.setStack_stack, State.setStack_sp, Vector.getElem_set] at hj ⊢
    split
    · rfl
    · exact hk j (by omega)
  next hsp =>
    rw [dif_neg (show ¬ (s.withHidden b k).sp.val < 16 from hsp)]
    exact raise_answersAlike hk _

theorem keySkip_answersAlike {t : State} {x : Reg} {c : Key → Bool} (hk : s.SameLive k)
    (h : orRaise s ((s.keyIndex (s.reg x)).map (fun k => s.skipIf (c k))) = .next t) :
    AnswersAlike s t b k (orRaise (s.withHidden b k)
      (((s.withHidden b k).keyIndex ((s.withHidden b k).reg x)).map (fun j => (s.withHidden b k).skipIf (c j)))) := by
  rw [keySkip_eq] at h
  rw [keySkip_eq]
  split at h <;> cases h
  next hx =>
    rw [dif_pos (show ((s.withHidden b k).reg x).toNat < 16 from hx)]
    exact .of_kept hk rfl rfl rfl rfl
  next hx =>
    rw [dif_neg (show ¬ ((s.withHidden b k).reg x).toNat < 16 from hx)]
    exact raise_answersAlike hk _

theorem exec_answersAlike {i : Instr} {t : State} (hk : s.SameLive k) (h : exec i s = .next t) :
    AnswersAlike s t b k (exec i (s.withHidden b k)) := by
  have hf := exec_frame h
  cases i
  case ret => exact execRet_answersAlike hk h
  case call nnn => exact execCall_answersAlike hk h
  case skp x => exact keySkip_answersAlike hk h
  case sknp x => exact keySkip_answersAlike (c := fun j => !s.keyDown j) hk h
  case ldStVx x =>
    cases h
    exact ⟨s.reg x, k, rfl, hk, fun _ => rfl, id⟩
  all_goals
    refine .of_kept hk ?_ (hf.st rfl) (hf.stack rfl).1 (hf.stack rfl).2
    cases h
  case addReg x _ | subReg x _ | shr x _ | subnReg x _ | shl x _ =>
    exact congrArg (fun u : State => Host.Outcome.next (u.advance s)) (writeFlagResult_withHidden s b k x _ _)
  case drw x y n =>
    simp only [exec, execDrw, xorRows_withHidden]
    rfl
  case ldVxK x => exact congrArg Host.Outcome.next (keyWaitWith_withHidden s b k x _)
  case storeRegs x =>
    exact congrArg (fun u : State => Host.Outcome.next (u.advance s)) (storeFirst_withHidden s b k _)
  case loadRegs x =>
    exact congrArg (fun u : State => Host.Outcome.next (u.advance s)) (loadFirst_withHidden s b k _)
  all_goals rfl

/-! ## The step and the statements -/

theorem keyWaitPoll_answersAlike (hk : s.SameLive k) :
    AnswersAlike s s.keyWaitPoll b k (.next (s.withHidden b k).keyWaitPoll) := by
  have hf := keyWaitPoll_within s
  obtain ⟨hstack, hsp⟩ := hf.stack rfl
  exact .of_kept hk (congrArg Host.Outcome.next (pollWith_withHidden s b k s.keyDraw)) (hf.st rfl) hstack hsp

/-- Both cycles take the same way: the mode, the fetch and the decoded instruction do not depend on the hidden parts. -/
theorem step_answersAlike {t : State} (hk : s.SameLive k) (h : step s = .next t) :
    AnswersAlike s t b k (step (s.withHidden b k)) := by
  have hmode : (s.withHidden b k).mode = s.mode := rfl
  have hfetch : (s.withHidden b k).fetch = s.fetch := rfl
  simp only [step, State.cycle, State.runCycle, hmode, hfetch] at h ⊢
  cases hm : s.mode with
  | halted f =>
    rw [hm] at h
    cases h
    exact .of_kept hk rfl rfl rfl rfl
  | awaitKey =>
    rw [hm] at h
    cases h
    exact keyWaitPoll_answersAlike hk
  | run =>
    rw [hm] at h
    cases hf : s.fetch with
    | error f =>
      rw [hf] at h
      cases h
      exact raise_answersAlike hk f
    | ok w =>
      simp only [hf] at h ⊢
      cases hd : decodeWord w with
      | error r =>
        rw [hd] at h
        cases h
        exact raise_answersAlike hk _
      | ok i =>
        rw [hd] at h
        exact exec_answersAlike hk h

end

/-- Settles O23: every other sound timer, the same stack. -/
theorem noStepReadsTheSoundTimer : Obligations.NoStepReadsTheSoundTimer := by
  intro s t b h
  obtain ⟨b', k', ht, -, -, hk⟩ := step_answersAlike (b := b) (fun _ _ => rfl) h
  obtain rfl := hk rfl
  exact ⟨_, ht, rfl⟩

/-- Settles O24: every stack with the same live entries, the same sound timer. -/
theorem deadStackEntriesAreNeverSeen : Obligations.DeadStackEntriesAreNeverSeen := by
  intro s t k hk h
  obtain ⟨b', k', ht, hlive, hb, -⟩ := step_answersAlike (b := s.st) hk h
  obtain rfl := hb rfl
  exact ⟨_, ht, rfl, hlive⟩

end Sys2Proof.Machine
end

section
/-! PROOFS. Memory as the core sees it (spec/20_memory.md R50 to R67): what a fetch reads, that a running core runs the word it fetches or
halts on the bound, which instructions store, and what a fetch and a glyph read back after a store. -/

namespace Sys2Proof

/-- The two bytes of a word as an integer, the first one high (R56). -/
theorem wordOfBytes_eq_ofNat (hi lo : Byte) : wordOfBytes hi lo = BitVec.ofNat 16 (hi.toNat * 256 + lo.toNat) := by
  apply BitVec.eq_of_toNat_eq
  rw [wordOfBytes, BitVec.toNat_append, ← Nat.shiftLeft_add_eq_or_of_lt lo.isLt, Nat.shiftLeft_eq, BitVec.toNat_ofNat]
  omega

/-- The word of a table number decodes to the instruction the number stands for. -/
theorem decodeWord_of_decodeTableWord {nbits w : Nat} {i : Instr} (h : decodeTableWord nbits w = some i) :
    decodeWord (BitVec.ofNat 16 (w % 2 ^ nbits)) = .ok i := by
  simp only [decodeTableWord, decode, wordOfBytes_bytes] at h
  cases hd : decodeWord (BitVec.ofNat 16 (w % 2 ^ nbits)) with
  | error r => simp [hd, Except.map] at h
  | ok j => simpa [hd, Except.map] using h

/-! ## A decoded instruction is well-formed -/

theorem decodeFixed_wellFormed {w : Word} {i : Instr} (h : decodeFixed w = .ok i) : i.wellFormed = true := by
  unfold decodeFixed at h
  iterate 2
    split at h
    · cases h; rfl
  cases h

theorem decodeNibbleZero_wellFormed {w : Word} {i j : Instr} (hi : i.wellFormed = true) (h : decodeNibbleZero w i = .ok j) :
    j.wellFormed = true := by
  unfold decodeNibbleZero at h
  split at h <;> cases h
  exact hi

theorem decodeAlu_wellFormed {w : Word} {i : Instr} (h : decodeAlu w = .ok i) : i.wellFormed = true := by
  simp only [decodeAlu] at h
  iterate 9
    split at h
    · cases h; rfl
  cases h

theorem decodeKeySkip_wellFormed {w : Word} {i : Instr} (h : decodeKeySkip w = .ok i) : i.wellFormed = true := by
  simp only [decodeKeySkip] at h
  iterate 2
    split at h
    · cases h; rfl
  cases h

theorem decodeMisc_wellFormed {w : Word} {i : Instr} (h : decodeMisc w = .ok i) : i.wellFormed = true := by
  simp only [decodeMisc] at h
  iterate 9
    split at h
    · cases h; rfl
  cases h

/-- The one operand with a bound to meet, the row count of Dxyn, is a nibble of the word (R83). -/
theorem decodeWord_wellFormed {w : Word} {i : Instr} (h : decodeWord w = .ok i) : i.wellFormed = true := by
  rcases nibble_cases (majorField w) with e | e | e | e | e | e | e | e | e | e | e | e | e | e | e | e
  · exact decodeFixed_wellFormed (decodeWord_major0 e ▸ h)
  · rw [decodeWord_major1 e] at h; cases h; rfl
  · rw [decodeWord_major2 e] at h; cases h; rfl
  · rw [decodeWord_major3 e] at h; cases h; rfl
  · rw [decodeWord_major4 e] at h; cases h; rfl
  · exact decodeNibbleZero_wellFormed rfl (decodeWord_major5 e ▸ h)
  · rw [decodeWord_major6 e] at h; cases h; rfl
  · rw [decodeWord_major7 e] at h; cases h; rfl
  · exact decodeAlu_wellFormed (decodeWord_major8 e ▸ h)
  · exact decodeNibbleZero_wellFormed rfl (decodeWord_major9 e ▸ h)
  · rw [decodeWord_majorA e] at h; cases h; rfl
  · rw [decodeWord_majorB e] at h; cases h; rfl
  · rw [decodeWord_majorC e] at h; cases h; rfl
  · rw [decodeWord_majorD e] at h; cases h
    exact decide_eq_true (Nat.le_of_lt_succ (nField w).isLt)
  · exact decodeKeySkip_wellFormed (decodeWord_majorE e ▸ h)
  · exact decodeMisc_wellFormed (decodeWord_majorF e ▸ h)

end Sys2Proof

namespace Sys2Proof.Machine

/-! ## The fetch and the step that follows it -/

theorem le_lastFetch_iff {a : Word} : a ≤ lastFetch ↔ a.toNat ≤ 0xFFE := BitVec.le_def

theorem gt_lastFetch_iff {a : Word} : a > lastFetch ↔ a.toNat > 0xFFE := BitVec.lt_def

theorem State.fetch_of_le {s : State} (h : s.pc ≤ lastFetch) :
    s.fetch = .ok (wordOfBytes (s.memRead s.pc.toNat) (s.memRead (s.pc.toNat + 1))) :=
  if_neg (BitVec.not_lt.mpr h)

theorem State.fetch_of_gt {s : State} (h : s.pc > lastFetch) : s.fetch = .error .outOfBounds := if_pos h

/-- A running core executes the instruction of the word it fetches. -/
theorem step_of_fetch {s : State} {w : Word} {i : Instr} (hm : s.mode = .run) (hf : s.fetch = .ok w)
    (hd : decodeWord w = .ok i) : step s = exec i s := by
  simp only [step, State.cycle, hm, State.runCycle, hf, hd]

/-- Settles O6: the bytes at `pc` are the word the step fetches. -/
theorem stepRunsTheDecodedInstruction : Obligations.StepRunsTheDecodedInstruction := by
  intro s i hm hpc hd
  rw [← wordOfBytes_eq_ofNat] at hd
  exact ⟨step_of_fetch hm (State.fetch_of_le (le_lastFetch_iff.mpr hpc)) hd, decodeWord_wellFormed hd⟩

/-- Settles O8: the halt's status is true of the state it is taken in (O11), and a running core out of bounds takes it. -/
theorem fetchOutOfBoundsHaltsExactlyAboveFFE : Obligations.FetchOutOfBoundsHaltsExactlyAboveFFE := by
  intro s hm
  rw [← gt_lastFetch_iff]
  constructor
  · intro h
    exact (haltEntryIsPrecise s _ .outOfBounds hm h rfl).2
  · intro h
    simp only [step, State.cycle, hm, State.runCycle, State.fetch_of_gt h]
    rfl

/-! ## A word placed at `pc` -/

/-- The fetch gets the two bytes stored at `pc` and `pc + 1`. -/
theorem State.fetch_memWrite_bytes {s : State} (hs : s.mem.wf) (hpc : s.pc ≤ lastFetch) (hi lo : Byte) :
    ((s.memWrite s.pc.toNat hi).memWrite (s.pc.toNat + 1) lo).fetch = .ok (wordOfBytes hi lo) := by
  have hne : dataAddr s.pc.toNat ≠ dataAddr (s.pc.toNat + 1) := by
    simp only [dataAddr, memSize]
    omega
  have hs' := State.memWrite_wf s.pc.toNat hi hs
  rw [State.fetch_of_le (s := (s.memWrite s.pc.toNat hi).memWrite (s.pc.toNat + 1) lo) hpc]
  simp only [State.memWrite_pc, State.memRead_memWrite hs', State.memRead_memWrite hs, if_neg hne, if_pos]

@[simp] theorem State.placeWord_mode (s : State) (nbits w : Nat) : (s.placeWord nbits w).mode = .run := rfl

theorem State.fetch_placeWord {s : State} (hs : s.mem.wf) (nbits w : Nat) :
    (s.placeWord nbits w).fetch = .ok (BitVec.ofNat 16 (w % 2 ^ nbits)) := by
  have hpc : (if s.pc > lastFetch then 0x200#16 else s.pc) ≤ lastFetch := by
    split
    · decide
    · exact BitVec.not_lt.mp ‹_›
  rw [← wordOfBytes_bytes (BitVec.ofNat 16 (w % 2 ^ nbits))]
  exact State.fetch_memWrite_bytes (s := (s.setMode .run).setPc _) hs hpc _ _

/-- Settles O7: the placed word is the one fetched, in mode Run. -/
theorem placedWordRunsNext : Obligations.PlacedWordRunsNext :=
  fun s w _ hs _ hd => step_of_fetch (s.placeWord_mode 16 w) (State.fetch_placeWord hs 16 w) (decodeWord_of_decodeTableWord hd)

/-! ## Stores -/

theorem footprint_stored {s : State} {i : Instr} {a : Nat} (h : a ∈ (footprint s i).stored) :
    ∃ x, i = .ldB x ∨ i = .storeRegs x := by
  cases i
  case ldB x => exact ⟨x, .inl rfl⟩
  case storeRegs x => exact ⟨x, .inr rfl⟩
  all_goals exact absurd h List.not_mem_nil

/-- Settles O22: a changed byte is outside the poll's frame, and inside the frame of Fx33 and Fx55 alone. -/
theorem onlyStoresWriteMemory : Obligations.OnlyStoresWriteMemory := by
  intro s t a h hne
  obtain ⟨w, i, -, hf, hd, he⟩ | hframe := step_exec_or_frame h
  · have hstored : dataAddr a ∈ (footprint s i).stored := by
      by_contra hout
      exact hne ((exec_frame he).memory a hout)
    obtain ⟨x, rfl | rfl⟩ := footprint_stored hstored
    · exact ⟨w, x, hf, .inl hd⟩
    · exact ⟨w, x, hf, .inr hd⟩
  · exact absurd (hframe.memory a List.not_mem_nil) hne

/-- Settles O26: the next fetch is at the address `I` reduces to, where the store loop put V0, with V1 after it. -/
theorem storeOntoTheNextWordIsFetched : Obligations.StoreOntoTheNextWordIsFetched := by
  intro s t x hs hx hpc hi h
  cases h
  have hnext : s.nextPc.toNat = s.pc.toNat + 2 := by
    unfold State.nextPc
    bv_omega
  have hread (j : Reg) (hj : j.val ≤ 1) : (s.storeFirst (x.val + 1)).memRead (s.nextPc.toNat + j.val) = s.reg j := by
    refine State.memRead_storeFirst_of_mem hs (by omega) j (by omega) ?_
    rw [hnext]
    simp only [dataAddr, memSize]
    omega
  rw [State.fetch_of_le (le_lastFetch_iff.mpr (hnext.trans_le hpc)), ← wordOfBytes_eq_ofNat, ← hread 0 (by decide),
    ← hread 1 (by decide)]
  rfl

/-! ## The font -/

@[simp] theorem State.loadFont_reg (s : State) (x : Reg) : s.loadFont.reg x = s.reg x := by
  obtain ⟨m, hm⟩ := s.writeBytes_eq_setMem 0 s.params.font.toList
  rw [State.loadFont, hm, State.setMem_reg]

/-- After `load_font()` the byte at an address below 80 is that byte of `FONT` (R262). -/
theorem State.memRead_loadFont {s : State} (hs : s.mem.wf) {a : Nat} (ha : a < 80) :
    s.loadFont.memRead a = s.params.font[a] := by
  have hlen : s.params.font.toList.length = 80 := Vector.length_toList
  have hda : dataAddr a = a := dataAddr_of_lt (ha.trans (by decide))
  rw [State.loadFont, State.memRead_writeBytes hs 0 _ (by rw [hlen]; decide), dif_pos (by omega)]
  simp [hda]

/-- Settles O46: five times a digit is no more than 75, so the glyph lies in the bytes `load_font()` wrote. -/
theorem glyphOfADigitIsItsFiveFontBytes : Obligations.GlyphOfADigitIsItsFiveFontBytes := by
  intro s t x d r hs hx h
  cases h
  have hi : (BitVec.ofNat 16 ((s.loadFont.reg x).toNat * 5)).toNat = 5 * d.val := by
    rw [State.loadFont_reg, hx, BitVec.toNat_ofNat]
    omega
  simp only [State.advance_memRead, State.advance_i, State.setI_memRead, State.setI_i, hi]
  exact State.memRead_loadFont hs (by omega)

end Sys2Proof.Machine
end

section
/-! PROOFS. The decoder and the encoder agree (spec/30_encoding.md R80 to R90): the decoder gives a well-formed instruction back from its
word; what it accepts is the word of the instruction it gives, which lies in that instruction's row of the map and in no other; and
what it rejects are the words of R89's table, which lie in no row. -/

namespace Sys2Proof

/-! ## Decoding an encoded instruction -/

/-- The decoder puts the two bytes together to the word they came from and hands on the bytes after them (R80). -/
theorem decode_encodeBytes (i : Instr) (rest : List Byte) :
    decode (encodeBytes i ++ rest) = (decodeWord (encode i)).map (fun j => (j, rest)) := by
  show (decodeWord (wordOfBytes _ _)).map _ = _
  rw [wordOfBytes_bytes]
  rfl

/-- A row count that has an encoding survives its four bits (R83). -/
theorem rowCount_toNat {n : Nat} (h : rowCountOk n = true) : (BitVec.ofNat 4 n).toNat = n :=
  Nat.mod_eq_of_lt (Nat.lt_succ_of_le (of_decide_eq_true h))

/-- Format by format: the major opcode and the function code are those written, and the operands are the fields cut out again. -/
theorem decodeWord_encode {i : Instr} (h : i.wellFormed = true) : decodeWord (encode i) = .ok i := by
  cases i
  case cls | ret => rfl
  case jp | call | ldI | jpV0 =>
    simp [encode, decodeWord_major1, decodeWord_major2, decodeWord_majorA, decodeWord_majorB, majorField_formatNnn,
      nnnField_formatNnn]
  case seByte | sneByte | ldByte | addByte | rnd =>
    simp [encode, decodeWord_major3, decodeWord_major4, decodeWord_major6, decodeWord_major7, decodeWord_majorC,
      majorField_formatXkk, xField_formatXkk, kkField_formatXkk]
  case seReg | sneReg =>
    simp [encode, decodeWord_major5, decodeWord_major9, decodeNibbleZero, majorField_formatXyn, xField_formatXyn,
      yField_formatXyn, nField_formatXyn]
  case drw x y n =>
    rw [encode, decodeWord_majorD (majorField_formatXyn ..), xField_formatXyn, yField_formatXyn, nField_formatXyn,
      rowCount_toNat h]
  case skp | sknp =>
    rw [encode, decodeWord_majorE (majorField_formatXkk ..)]
    simp [decodeKeySkip, xField_formatXkk, kkField_formatXkk]
  case ldVxDt | ldVxK | ldDtVx | ldStVx | addI | ldF | ldB | storeRegs | loadRegs =>
    rw [encode, decodeWord_majorF (majorField_formatXkk ..)]
    simp [decodeMisc, xField_formatXkk, kkField_formatXkk]
  case ldReg | orReg | andReg | xorReg | addReg | subReg | shr | subnReg | shl =>
    rw [encode, decodeWord_major8 (majorField_formatXyn ..)]
    simp [decodeAlu, xField_formatXyn, yField_formatXyn, nField_formatXyn]

/-- Settles O1: the word decodes back, and the two bytes are the word. -/
theorem decodeOfEncodeIsTheInstruction : Obligations.DecodeOfEncodeIsTheInstruction := by
  intro i rest h
  rw [decode_encodeBytes, decodeWord_encode h]
  exact ⟨rfl, rfl⟩

/-! ## The word of a decoded instruction -/

section
variable {w : Word} {i : Instr}

theorem formatNnn_of_major {n1 : BitVec 4} (hm : majorField w = n1) : formatNnn n1 (nnnField w) = w :=
  hm ▸ formatNnn_fields w

theorem formatXkk_of_major {n1 : BitVec 4} (hm : majorField w = n1) : formatXkk n1 (xField w) (kkField w) = w :=
  hm ▸ formatXkk_fields w

theorem formatXkk_of_major_kk {n1 : BitVec 4} {kk : Byte} (hm : majorField w = n1) (hk : kkField w = kk) :
    formatXkk n1 (xField w) kk = w :=
  hk ▸ formatXkk_of_major hm

theorem formatXyn_of_major_n {n1 n : BitVec 4} (hm : majorField w = n1) (hn : nField w = n) :
    formatXyn n1 (xField w) (yField w) n = w :=
  hm ▸ hn ▸ formatXyn_fields w

theorem encode_of_decodeFixed (h : decodeFixed w = .ok i) : encode i = w := by
  unfold decodeFixed at h
  iterate 2
    split at h
    · cases h; exact Eq.symm ‹_›
  cases h

theorem encode_of_decodeNibbleZero {j : Instr} (hi : nField w = 0x0#4 → encode i = w) (h : decodeNibbleZero w i = .ok j) :
    encode j = w := by
  unfold decodeNibbleZero at h
  split at h <;> cases h
  exact hi ‹_›

theorem encode_of_decodeAlu (hm : majorField w = 0x8#4) (h : decodeAlu w = .ok i) : encode i = w := by
  simp only [decodeAlu] at h
  iterate 9
    split at h
    · cases h; exact formatXyn_of_major_n hm ‹_›
  cases h

theorem encode_of_decodeKeySkip (hm : majorField w = 0xE#4) (h : decodeKeySkip w = .ok i) : encode i = w := by
  simp only [decodeKeySkip] at h
  iterate 2
    split at h
    · cases h; exact formatXkk_of_major_kk hm ‹_›
  cases h

theorem encode_of_decodeMisc (hm : majorField w = 0xF#4) (h : decodeMisc w = .ok i) : encode i = w := by
  simp only [decodeMisc] at h
  iterate 9
    split at h
    · cases h; exact formatXkk_of_major_kk hm ‹_›
  cases h

/-- Major opcode by major opcode: the fields the decoder cuts out, laid out again, are the word. -/
theorem encode_of_decodeWord (h : decodeWord w = .ok i) : encode i = w := by
  rcases nibble_cases (majorField w) with e | e | e | e | e | e | e | e | e | e | e | e | e | e | e | e
  · exact encode_of_decodeFixed (decodeWord_major0 e ▸ h)
  · rw [decodeWord_major1 e] at h; cases h; exact formatNnn_of_major e
  · rw [decodeWord_major2 e] at h; cases h; exact formatNnn_of_major e
  · rw [decodeWord_major3 e] at h; cases h; exact formatXkk_of_major e
  · rw [decodeWord_major4 e] at h; cases h; exact formatXkk_of_major e
  · exact encode_of_decodeNibbleZero (formatXyn_of_major_n e) (decodeWord_major5 e ▸ h)
  · rw [decodeWord_major6 e] at h; cases h; exact formatXkk_of_major e
  · rw [decodeWord_major7 e] at h; cases h; exact formatXkk_of_major e
  · exact encode_of_decodeAlu e (decodeWord_major8 e ▸ h)
  · exact encode_of_decodeNibbleZero (formatXyn_of_major_n e) (decodeWord_major9 e ▸ h)
  · rw [decodeWord_majorA e] at h; cases h; exact formatNnn_of_major e
  · rw [decodeWord_majorB e] at h; cases h; exact formatNnn_of_major e
  · rw [decodeWord_majorC e] at h; cases h; exact formatXkk_of_major e
  · rw [decodeWord_majorD e] at h; cases h
    rw [encode, BitVec.ofNat_toNat, BitVec.setWidth_eq]
    exact formatXyn_of_major_n e rfl
  · exact encode_of_decodeKeySkip e (decodeWord_majorE e ▸ h)
  · exact encode_of_decodeMisc e (decodeWord_majorF e ▸ h)

end

/-- Settles O2: the decoder keeps every field of the word in an operand or checks it against a code. -/
theorem encodeOfDecodeIsTheWord : Obligations.EncodeOfDecodeIsTheWord :=
  fun _ _ h => ⟨decodeWord_wellFormed h, encode_of_decodeWord h⟩

/-! ## The words of R89: what each part of the decoder rejects -/

section
variable {w : Word}

theorem decodeFixed_error_iff : decodeFixed w = .error (.unknownOpcode w) ↔ w.toNat ≠ 0x00E0 ∧ w.toNat ≠ 0x00EE := by
  simp only [decodeFixed, ne_eq, ← BitVec.toNat_inj]
  split
  · simp_all
  · split <;> simp_all

theorem decodeNibbleZero_error_iff {i : Instr} :
    decodeNibbleZero w i = .error (.unknownOpcode w) ↔ w.toNat % 16 ≠ 0 := by
  rw [← nField_toNat, decodeNibbleZero]
  split <;> simp_all [← BitVec.toNat_inj]

theorem decodeAlu_error_iff :
    decodeAlu w = .error (.unknownOpcode w) ↔ w.toNat % 16 ∈ [0x8, 0x9, 0xA, 0xB, 0xC, 0xD, 0xF] := by
  rw [← nField_toNat]
  simp only [decodeAlu]
  rcases nibble_cases (nField w) with e | e | e | e | e | e | e | e | e | e | e | e | e | e | e | e <;> simp [e]

theorem decodeKeySkip_error_iff :
    decodeKeySkip w = .error (.unknownOpcode w) ↔ w.toNat % 256 ∉ [0x9E, 0xA1] := by
  rw [← kkField_toNat]
  simp only [decodeKeySkip]
  iterate 2
    split
    · simp [*]
  simp_all [← BitVec.toNat_inj]

theorem decodeMisc_error_iff :
    decodeMisc w = .error (.unknownOpcode w) ↔ w.toNat % 256 ∉ [0x07, 0x0A, 0x15, 0x18, 0x1E, 0x29, 0x33, 0x55, 0x65] := by
  rw [← kkField_toNat]
  simp only [decodeMisc]
  iterate 9
    split
    · simp [*]
  simp_all [← BitVec.toNat_inj]

/-- Major opcode by major opcode: six have a line in R89's table, the other ten reject nothing (R86). -/
theorem decodeWord_error_iff : decodeWord w = .error (.unknownOpcode w) ↔ IllegalWord w.toNat := by
  unfold IllegalWord
  rw [← majorField_toNat]
  rcases nibble_cases (majorField w) with e | e | e | e | e | e | e | e | e | e | e | e | e | e | e | e
  · simp [e, decodeWord_major0 e, decodeFixed_error_iff]
  · simp [e, decodeWord_major1 e]
  · simp [e, decodeWord_major2 e]
  · simp [e, decodeWord_major3 e]
  · simp [e, decodeWord_major4 e]
  · simp [e, decodeWord_major5 e, decodeNibbleZero_error_iff]
  · simp [e, decodeWord_major6 e]
  · simp [e, decodeWord_major7 e]
  · simp [e, decodeWord_major8 e, decodeAlu_error_iff]
  · simp [e, decodeWord_major9 e, decodeNibbleZero_error_iff]
  · simp [e, decodeWord_majorA e]
  · simp [e, decodeWord_majorB e]
  · simp [e, decodeWord_majorC e]
  · simp [e, decodeWord_majorD e]
  · simp [e, decodeWord_majorE e, decodeKeySkip_error_iff]
  · simp [e, decodeWord_majorF e, decodeMisc_error_iff]

end

/-- Settles O4: each major opcode rejects exactly its own line of the table. -/
theorem rejectedWordsAreTheIllegalWords : Obligations.RejectedWordsAreTheIllegalWords := fun _ => decodeWord_error_iff

/-! ## The rows of the opcode map -/

/-- R87: two rows that agree on the bits both of them fix are one row. -/
theorem opcodeTable_disjoint : ∀ r ∈ opcodeTable, ∀ q ∈ opcodeTable, r.value &&& q.mask = q.value &&& r.mask → r = q := by
  decide

theorem OpcodeRow.eq_of_selected {w : Word} {r q : OpcodeRow} (hr : r ∈ opcodeTable) (hq : q ∈ opcodeTable)
    (hwr : w &&& r.mask = r.value) (hwq : w &&& q.mask = q.value) : r = q := by
  refine opcodeTable_disjoint r hr q hq ?_
  rw [← hwr, ← hwq, BitVec.and_assoc, BitVec.and_assoc, BitVec.and_comm r.mask]

/-- Every row's own value is a word of that row, and legal. -/
theorem opcodeTable_value_legal : ∀ r ∈ opcodeTable, ¬ IllegalWord r.value.toNat := by
  simp only [IllegalWord]
  decide

/-- The mask of a row fixes every bit that the decode inside the row's major opcode reads (R86). -/
theorem opcodeTable_mask_fixes : ∀ r ∈ opcodeTable,
    majorField r.mask = BitVec.allOnes 4 ∧
    (r.value.toNat / 4096 = 0x0 → r.mask = BitVec.allOnes 16) ∧
    (r.value.toNat / 4096 ∈ [0x5, 0x8, 0x9] → nField r.mask = BitVec.allOnes 4) ∧
    (r.value.toNat / 4096 ∈ [0xE, 0xF] → kkField r.mask = BitVec.allOnes 8) := by
  decide

section
variable {w m v : Word} (h : w &&& m = v)
include h

/-- A field all of whose bits the mask keeps is that field of the masked word. -/
theorem extractLsb'_eq_of_masked {start len : Nat} (hm : m.extractLsb' start len = BitVec.allOnes len) :
    w.extractLsb' start len = v.extractLsb' start len := by
  rw [← h, BitVec.extractLsb'_and, hm, BitVec.and_allOnes]

theorem majorField_eq_of_masked (hm : majorField m = BitVec.allOnes 4) : majorField w = majorField v :=
  extractLsb'_eq_of_masked h hm

theorem nField_eq_of_masked (hm : nField m = BitVec.allOnes 4) : nField w = nField v := extractLsb'_eq_of_masked h hm

theorem kkField_eq_of_masked (hm : kkField m = BitVec.allOnes 8) : kkField w = kkField v := extractLsb'_eq_of_masked h hm

end

/-- A word of a row has the row's value in the bits that make a word illegal, and that value is legal. -/
theorem not_illegalWord_of_selected {w : Word} {r : OpcodeRow} (hr : r ∈ opcodeTable) (hw : w &&& r.mask = r.value) :
    ¬ IllegalWord w.toNat := by
  obtain ⟨hmajor, hfixed, hnibble, hbyte⟩ := opcodeTable_mask_fixes r hr
  have hword (e : r.value.toNat / 4096 = 0x0) : w = r.value := by rw [← hw, hfixed e, BitVec.and_allOnes]
  have hn (e : r.value.toNat / 4096 ∈ [0x5, 0x8, 0x9]) : w.toNat % 16 = r.value.toNat % 16 := by
    rw [← nField_toNat, ← nField_toNat, nField_eq_of_masked hw (hnibble e)]
  have hkk (e : r.value.toNat / 4096 ∈ [0xE, 0xF]) : w.toNat % 256 = r.value.toNat % 256 := by
    rw [← kkField_toNat, ← kkField_toNat, kkField_eq_of_masked hw (hbyte e)]
  refine fun hill => opcodeTable_value_legal r hr ?_
  unfold IllegalWord at hill ⊢
  rw [← majorField_toNat, majorField_eq_of_masked hw hmajor, majorField_toNat] at hill
  obtain ⟨e, hx⟩ | ⟨e, hx⟩ | ⟨e, hx⟩ | ⟨e, hx⟩ | ⟨e, hx⟩ | ⟨e, hx⟩ := hill
  · rw [hword e] at hx
    exact .inl ⟨e, hx⟩
  · rw [hn (by simp [e])] at hx
    exact .inr (.inl ⟨e, hx⟩)
  · rw [hn (by simp [e])] at hx
    exact .inr (.inr (.inl ⟨e, hx⟩))
  · rw [hn (by simp [e])] at hx
    exact .inr (.inr (.inr (.inl ⟨e, hx⟩)))
  · rw [hkk (by simp [e])] at hx
    exact .inr (.inr (.inr (.inr (.inl ⟨e, hx⟩))))
  · rw [hkk (by simp [e])] at hx
    exact .inr (.inr (.inr (.inr (.inr ⟨e, hx⟩))))

/-- The family `Encoding`, for every instruction: its row is a row of the map, and its word selects that row. -/
theorem encode_selects_row (i : Instr) : i.row ∈ opcodeTable ∧ encode i &&& i.row.mask = i.row.value := by
  have h : Laws.Encoding.Statement i := by
    cases i with
    | cls => exact Laws.Encoding.cls
    | ret => exact Laws.Encoding.ret
    | jp nnn => exact Laws.Encoding.jp nnn
    | call nnn => exact Laws.Encoding.call nnn
    | seByte x kk => exact Laws.Encoding.seByte x kk
    | sneByte x kk => exact Laws.Encoding.sneByte x kk
    | seReg x y => exact Laws.Encoding.seReg x y
    | ldByte x kk => exact Laws.Encoding.ldByte x kk
    | addByte x kk => exact Laws.Encoding.addByte x kk
    | ldReg x y => exact Laws.Encoding.ldReg x y
    | orReg x y => exact Laws.Encoding.orReg x y
    | andReg x y => exact Laws.Encoding.andReg x y
    | xorReg x y => exact Laws.Encoding.xorReg x y
    | addReg x y => exact Laws.Encoding.addReg x y
    | subReg x y => exact Laws.Encoding.subReg x y
    | shr x y => exact Laws.Encoding.shr x y
    | subnReg x y => exact Laws.Encoding.subnReg x y
    | shl x y => exact Laws.Encoding.shl x y
    | sneReg x y => exact Laws.Encoding.sneReg x y
    | ldI nnn => exact Laws.Encoding.ldI nnn
    | jpV0 nnn => exact Laws.Encoding.jpV0 nnn
    | rnd x kk => exact Laws.Encoding.rnd x kk
    | drw x y n => exact Laws.Encoding.drw x y n
    | skp x => exact Laws.Encoding.skp x
    | sknp x => exact Laws.Encoding.sknp x
    | ldVxDt x => exact Laws.Encoding.ldVxDt x
    | ldVxK x => exact Laws.Encoding.ldVxK x
    | ldDtVx x => exact Laws.Encoding.ldDtVx x
    | ldStVx x => exact Laws.Encoding.ldStVx x
    | addI x => exact Laws.Encoding.addI x
    | ldF x => exact Laws.Encoding.ldF x
    | ldB x => exact Laws.Encoding.ldB x
    | storeRegs x => exact Laws.Encoding.storeRegs x
    | loadRegs x => exact Laws.Encoding.loadRegs x
  exact h.imp_right beq_iff_eq.mp

/-- The operands of an instruction are the fields of its word, format by format (R81, R82). -/
theorem operandsAre_encode {i : Instr} (h : i.wellFormed = true) : OperandsAre (encode i).toNat i := by
  cases i
  case cls | ret => rfl
  case jp | call | ldI | jpV0 => simp only [OperandsAre, encode, ← nnnField_toNat, nnnField_formatNnn]
  case seByte | sneByte | ldByte | addByte | rnd =>
    simp only [OperandsAre, encode, ← xField_val, ← kkField_toNat, xField_formatXkk, kkField_formatXkk, and_self]
  case drw x y n =>
    simp only [OperandsAre, encode, ← xField_val, ← yField_val, ← nField_toNat, xField_formatXyn, yField_formatXyn,
      nField_formatXyn, rowCount_toNat h, and_self]
  case skp | sknp | ldVxDt | ldVxK | ldDtVx | ldStVx | addI | ldF | ldB | storeRegs | loadRegs =>
    simp only [OperandsAre, encode, ← xField_val, xField_formatXkk]
  case seReg | ldReg | orReg | andReg | xorReg | addReg | subReg | shr | subnReg | shl | sneReg =>
    simp only [OperandsAre, encode, ← xField_val, ← yField_val, xField_formatXyn, yField_formatXyn, and_self]

/-- Settles O3: an accepted word is its instruction's word (O2), which lies in one row; a rejected word is illegal (O4), and no word of
a row is. -/
theorem decodeReturnsTheUniqueRowAndItsFields : Obligations.DecodeReturnsTheUniqueRowAndItsFields := by
  intro w
  cases h : decodeWord w with
  | ok i =>
    obtain rfl := encode_of_decodeWord h
    obtain ⟨hrow, hsel⟩ := encode_selects_row i
    exact .inl ⟨i, rfl, hrow, hsel, fun r hr hw => OpcodeRow.eq_of_selected hr hrow hw hsel,
      operandsAre_encode (decodeWord_wellFormed h)⟩
  | error r =>
    obtain rfl := decodeWord_error h
    exact .inr ⟨rfl, fun r hr hw => not_illegalWord_of_selected hr hw (decodeWord_error_iff.mp h)⟩

end Sys2Proof
end

section
/-! PROOFS. The handler state machine (spec/30_encoding.md R101, R104): the status a `cycle()` returns is read off the mode it leaves,
so what each way a step can go does to the mode gives both columns of the table. -/

namespace Sys2Proof.Machine

theorem State.mem_qualifying {s : State} {k : Key} : k ∈ s.qualifying ↔ Qualifies s k := by
  unfold State.qualifying Qualifies
  split
  next h => simp [State.keysPressed, h]
  next h => simp [State.keysHeld, h]

theorem State.cycleStatus_of_step {s t : State} (h : step s = .next t) : s.cycleStatus = some t.mode.status := by
  rw [State.cycleStatus, show s.cycle = .next t from h]

/-- The three rows of R104 from Run, for the instruction that runs. -/
theorem exec_mode_of_run {i : Instr} {s t : State} (hm : s.mode = .run) (h : exec i s = .next t) :
    t.mode = .run ∨ (t.mode = .awaitKey ∧ ∃ x, i = .ldVxK x ∧ t.kwReg = x) ∨ ∃ f, t.mode = .halted f := by
  obtain ⟨hmode, -, -⟩ | ⟨f, rfl, -, -, -⟩ | ⟨x, hi, rfl⟩ := exec_next_cases h
  · exact .inl (hmode.trans hm)
  · exact .inr (.inr ⟨f, rfl⟩)
  · exact .inr (.inl ⟨rfl, x, hi, rfl⟩)

/-- The two rows of R104 from AwaitKey. -/
theorem State.keyWaitPoll_mode {s : State} (hm : s.mode = .awaitKey) :
    ((∀ k, ¬ Qualifies s k) ∧ s.keyWaitPoll.mode = .awaitKey) ∨ ((∃ k, Qualifies s k) ∧ s.keyWaitPoll.mode = .run) := by
  rw [State.keyWaitPoll]
  obtain ⟨hnone, h⟩ | ⟨k, hk, h⟩ := s.pollWith_cases s.keyDraw <;> rw [h]
  · refine .inl ⟨fun k hq => ?_, hm⟩
    exact List.not_mem_nil (hnone ▸ State.mem_qualifying.mpr hq)
  · exact .inr ⟨⟨k, State.mem_qualifying.mp hk⟩, rfl⟩

/-- Settles O13: each mode has its own ways to step, and the mode each of them leaves gives the status. -/
theorem modeTransitionsAndStatuses : Obligations.ModeTransitionsAndStatuses := by
  intro s t h
  rw [State.cycleStatus_of_step h]
  obtain ⟨w, i, hm, hf, hd, he⟩ | ⟨f, hm, -, rfl⟩ | ⟨hm, rfl⟩ | ⟨f, hm, rfl⟩ := step_cases h
  · refine ⟨fun _ => ?_, by simp [hm], by simp [hm]⟩
    obtain ht | ⟨ht, x, rfl, hx⟩ | ⟨f, ht⟩ := exec_mode_of_run hm he <;> rw [ht]
    · exact .inl ⟨rfl, rfl⟩
    · exact .inr (.inl ⟨rfl, rfl, w, x, hf, hd, hx⟩)
    · exact .inr (.inr ⟨f, rfl, rfl⟩)
  · exact ⟨fun _ => .inr (.inr ⟨f, rfl, rfl⟩), by simp [hm], by simp [hm]⟩
  · refine ⟨by simp [hm], fun _ => ?_, by simp [hm]⟩
    obtain ⟨hq, ht⟩ | ⟨hq, ht⟩ := State.keyWaitPoll_mode hm <;> rw [ht]
    · exact .inl ⟨hq, rfl, rfl⟩
    · exact .inr ⟨hq, rfl, rfl⟩
  · refine ⟨by simp [hm], by simp [hm], fun g hg => ?_⟩
    rw [hg]
    exact ⟨rfl, rfl⟩

end Sys2Proof.Machine
end

section
/-! PROOFS. The display instructions (spec/40_display.md R110 to R113): what a draw does to each cell and to VF, over the sprite as the
statements count it, then the statements, each read off those two rules. -/

namespace Sys2Proof.Machine

/-- An instruction that answers a next state completes within its footprint. -/
theorem completes_of_exec {i : Instr} {s t : State} {post : State → Prop} (h : exec i s = .next t) (ht : post t) :
    Completes i s (footprint s i) post := ⟨t, h, exec_frame h, ht⟩

/-- Settles O27: the screen CLS leaves is the blank one. -/
theorem clsClearsEveryCell : Obligations.ClsClearsEveryCell :=
  ⟨rfl, fun _ => completes_of_exec rfl ⟨FrameBuffer.pixel_blank, rfl⟩⟩

/-! ## What a draw does -/

theorem flagByte_toNat (c : Bool) : (flagByte c).toNat = if c = true then 1 else 0 := by cases c <;> rfl

/-- The sprite of the statements, in the compositor's words. -/
theorem spriteCell_eq (s : State) (x y : Reg) (n : Nat) (c : Fin 64) (r : Fin 32) :
    spriteCell s x y n c r =
      (decide (spriteColumnAt (s.reg x) c < 8) && decide (spriteRowAt (s.reg y) r < n) &&
        (s.memRead (s.i.toNat + spriteRowAt (s.reg y) r)).getLsbD (7 - spriteColumnAt (s.reg x) c)) := rfl

section
variable {x y : Reg} {n : Nat} {s t : State} (hn : n ≤ 15) (h : exec (.drw x y n) s = .next t)
include h

/-- The sprite is the same after the draw: its coordinates are not in VF, and nothing else it depends on is written. -/
theorem spriteCell_of_exec_drw (hx : x ≠ vf) (hy : y ≠ vf) (c : Fin 64) (r : Fin 32) :
    spriteCell t x y n c r = spriteCell s x y n c r := by
  have frame := exec_frame h
  rw [spriteCell_eq, spriteCell_eq, frame.regs x (by simpa [footprint] using hx), frame.regs y (by simpa [footprint] using hy),
    frame.index rfl, frame.memory _ List.not_mem_nil]

include hn

/-- R111: each cell is the old one XOR the sprite bit on it. -/
theorem exec_drw_pixel (c : Fin 64) (r : Fin 32) :
    t.fb.pixel c r = xor (s.fb.pixel c r) (spriteCell s x y n c r) := by
  cases h
  exact pixel_xorRows s (s.reg x) (s.reg y) (by omega) (s.fb, false) c r

/-- R111: VF tells whether a set sprite bit fell on a set cell. -/
theorem exec_drw_vf :
    (t.reg vf).toNat = if ∃ c r, spriteCell s x y n c r = true ∧ s.fb.pixel c r = true then 1 else 0 := by
  cases h
  rw [State.advance_reg, State.reg_setReg_self, flagByte_toNat]
  refine if_congr ?_ rfl rfl
  rw [collision_xorRows s _ _ (by omega)]
  simp only [spriteCell_eq, Bool.and_eq_true, decide_eq_true_eq, Bool.false_eq_true, false_or, and_assoc]

/-- A cell went from set to clear exactly where a set sprite bit fell on a set cell. -/
theorem exec_drw_cleared_iff (c : Fin 64) (r : Fin 32) :
    (s.fb.pixel c r = true ∧ t.fb.pixel c r = false) ↔ (spriteCell s x y n c r = true ∧ s.fb.pixel c r = true) := by
  rw [exec_drw_pixel hn h]
  cases s.fb.pixel c r <;> simp

end

/-- Settles O28: the two rules of a draw, with its collision told by the cells that went clear. -/
theorem drawXorsTheSpriteAndReportsCollision : Obligations.DrawXorsTheSpriteAndReportsCollision := by
  refine fun x y n hn => ⟨(encode_selects_row (.drw x y n)).2, fun s => ?_⟩
  obtain ⟨t, h⟩ : ∃ t, exec (.drw x y n) s = .next t := ⟨_, rfl⟩
  refine completes_of_exec h ⟨by cases h; rfl, exec_drw_pixel hn h, ?_⟩
  simp only [exec_drw_cleared_iff hn h, exec_drw_vf hn h]
  exact ⟨fun hc => if_pos hc, fun hc => if_neg hc⟩

/-- Settles O29: the second draw has the sprite of the first, and finds each cell XORed with it. -/
theorem drawingTwiceRestoresTheScreen : Obligations.DrawingTwiceRestoresTheScreen := by
  intro x y n s t u hn hx hy ht hu
  have hsprite := spriteCell_of_exec_drw ht hx hy
  have hpixel := exec_drw_pixel hn ht
  refine ⟨fun c r => ?_, fun hclear => ?_, ?_⟩
  · rw [exec_drw_pixel hn hu, hsprite, hpixel, Bool.xor_assoc, Bool.xor_self, Bool.xor_false]
  · rw [exec_drw_vf hn ht, if_neg]
    simp [hclear]
  · have hcell (c r) : (spriteCell t x y n c r = true ∧ t.fb.pixel c r = true) ↔
        (spriteCell s x y n c r = true ∧ s.fb.pixel c r = false) := by
      rw [hsprite, hpixel]
      cases spriteCell s x y n c r <;> simp
    simp only [exec_drw_vf hn hu, hcell, ite_eq_left_iff, zero_ne_one, imp_false, not_not]

/-! ## R113 (b) as written -/

/-- Every cell set, and a sprite row at address 0 with its leftmost bit set. -/
def setUnderSprite : State :=
  { State.reset with fb := Vector.replicate 64 (Vector.replicate 32 true), mem := [(0, 0x80)] }

theorem setUnderSprite_pixel (c : Fin 64) (r : Fin 32) : setUnderSprite.fb.pixel c r = true := by
  simp [setUnderSprite, FrameBuffer.pixel]

/-- Refutes O30: on a screen set under the sprite the first of two draws clears the cell and the second sets it, with no collision
though the sprite has a bit. -/
theorem not_secondDrawCollidesWheneverTheSpriteHasABit : ¬ Obligations.SecondDrawCollidesWheneverTheSpriteHasABit := by
  intro hb
  obtain ⟨t, ht⟩ : ∃ t, exec (.drw 0 0 1) setUnderSprite = .next t := ⟨_, rfl⟩
  obtain ⟨u, hu⟩ : ∃ u, exec (.drw 0 0 1) t = .next u := ⟨_, rfl⟩
  have hbit : ∃ r, r < 1 ∧ setUnderSprite.memRead (setUnderSprite.i.toNat + r) ≠ 0 := ⟨0, by decide, by decide⟩
  have hvf := (hb 0 0 1 _ t u (by decide) (by decide) (by decide) ht hu).mpr hbit
  obtain ⟨-, -, hsecond⟩ := drawingTwiceRestoresTheScreen 0 0 1 _ t u (by decide) (by decide) (by decide) ht hu
  obtain ⟨c, r, -, hclear⟩ := hsecond.mp hvf
  rw [setUnderSprite_pixel] at hclear
  cases hclear

end Sys2Proof.Machine
end

section
/-! PROOFS. Control flow (spec/41_control_flow.md R130 to R139): where a jump or a skip leaves `pc`, the two stack primitives where they
succeed, then the statements; a call followed by a return is the statement of each, one after the other. -/

namespace Sys2Proof.Machine

/-! ## Jumps and skips -/

theorem zextAddr_eq_ofNat (nnn : Addr12) : zextAddr nnn = BitVec.ofNat 16 nnn.toNat := (BitVec.ofNat_toNat 16 nnn).symm

theorem zextAddr_toNat (nnn : Addr12) : (zextAddr nnn).toNat = nnn.toNat := BitVec.toNat_setWidth_of_le (by decide)

/-- R139, D27: the target of Bnnn is not reduced. -/
theorem zextAddr_add_zextByte_toNat (nnn : Addr12) (b : Byte) : (zextAddr nnn + zextByte b).toNat = nnn.toNat + b.toNat := by
  unfold zextAddr zextByte
  bv_omega

theorem State.skipIf_beq_pc (s : State) (a b : Byte) :
    (s.skipIf (a == b)).pc = if a.toNat = b.toNat then s.pc + 4 else s.pc + 2 :=
  if_congr (beq_iff_eq.trans BitVec.toNat_inj.symm) rfl rfl

theorem State.skipIf_bne_pc (s : State) (a b : Byte) :
    (s.skipIf (a != b)).pc = if a.toNat = b.toNat then s.pc + 2 else s.pc + 4 := by
  rw [← ite_not]
  exact if_congr (bne_iff_ne.trans BitVec.toNat_inj.symm.not) rfl rfl

/-- Settles O31: the footprint of each is empty, and its comparison is that of the values. -/
theorem jumpsAndSkipsOnlyMovePc : Obligations.JumpsAndSkipsOnlyMovePc :=
  ⟨fun nnn => ⟨(encode_selects_row (.jp nnn)).2, fun _ => completes_of_exec rfl (zextAddr_eq_ofNat nnn)⟩,
    fun x kk => ⟨(encode_selects_row (.seByte x kk)).2, fun s => completes_of_exec rfl (s.skipIf_beq_pc (s.reg x) kk)⟩,
    fun x kk => ⟨(encode_selects_row (.sneByte x kk)).2, fun s => completes_of_exec rfl (s.skipIf_bne_pc (s.reg x) kk)⟩,
    fun x y => ⟨(encode_selects_row (.seReg x y)).2, fun s => completes_of_exec rfl (s.skipIf_beq_pc (s.reg x) (s.reg y))⟩,
    fun x y => ⟨(encode_selects_row (.sneReg x y)).2, fun s => completes_of_exec rfl (s.skipIf_bne_pc (s.reg x) (s.reg y))⟩⟩

/-- Settles O32: the sum is exact and inside its bound. -/
theorem jpV0AddsV0ToTheAddress : Obligations.JpV0AddsV0ToTheAddress :=
  fun nnn => ⟨(encode_selects_row (.jpV0 nnn)).2, fun s =>
    completes_of_exec rfl ⟨zextAddr_add_zextByte_toNat nnn (s.reg 0), zextAddr_add_zextByte_toNat_le nnn (s.reg 0)⟩⟩

/-! ## The stack primitives where they succeed -/

theorem State.push_of_lt {s : State} (h : s.sp.val < 16) (a : Word) :
    s.push a = .ok (s.setStack (s.stack.set s.sp.val a) ⟨s.sp.val + 1, by omega⟩) := dif_pos h

theorem State.pop_of_sp_eq {s : State} {j : Fin 16} (h : s.sp.val = j.val + 1) :
    s.pop = .ok (s.stack[j.val], s.setStack s.stack j.castSucc) := by
  have hj : s.sp.val - 1 = j.val := by omega
  rw [State.pop, dif_pos (by omega)]
  simp only [hj]
  rfl

theorem State.push_eq_stackOverflow_iff {s : State} {a : Word} : s.push a = .error .stackOverflow ↔ s.sp.val = 16 :=
  ⟨fun h => (State.push_error h).1, fun h => dif_neg (by omega)⟩

theorem State.pop_eq_stackUnderflow_iff {s : State} : s.pop = .error .stackUnderflow ↔ s.sp.val = 0 :=
  ⟨fun h => (State.pop_error h).1, fun h => dif_neg (by omega)⟩

/-- The entries after a push. -/
theorem stack_set_getElem (k : Vector Word 16) (d j : Fin 16) (a : Word) :
    (k.set d.val a)[j.val] = if j.val = d.val then a else k[j.val] := by
  rw [Vector.getElem_set]
  exact if_congr eq_comm rfl rfl

/-- R131: a pop right after a push returns what was pushed and restores SP. -/
theorem State.pop_of_push {s t : State} {a : Word} (h : s.push a = .ok t) : t.pop = .ok (a, t.setStack t.stack s.sp) := by
  obtain ⟨hsp, rfl⟩ := State.push_ok h
  rw [State.pop_of_sp_eq (j := ⟨s.sp.val, hsp⟩) rfl]
  simp only [State.setStack_stack, Vector.getElem_set_self]
  rfl

/-- Settles O36: each primitive fails exactly at its bound, and succeeds otherwise as its equation says. -/
theorem pushAndPopAreALifo : Obligations.PushAndPopAreALifo := by
  refine ⟨fun s a => State.push_eq_stackOverflow_iff, fun s => State.pop_eq_stackUnderflow_iff, fun s a hsp => ?_, fun s j hsp => ?_⟩
  · have hpush := State.push_of_lt hsp a
    exact ⟨_, _, hpush, rfl, fun j => stack_set_getElem s.stack ⟨s.sp.val, hsp⟩ j a, State.pop_of_push hpush, rfl⟩
  · exact ⟨_, State.pop_of_sp_eq hsp, rfl, rfl⟩

/-! ## Call and return -/

theorem exec_call_of_lt {s : State} (h : s.sp.val < 16) (nnn : Addr12) : exec (.call nnn) s =
    .next ((s.setStack (s.stack.set s.sp.val s.nextPc) ⟨s.sp.val + 1, by omega⟩).setPc (zextAddr nnn)) := by
  rw [exec, execCall, State.push_of_lt h]
  rfl

theorem exec_ret_of_sp_eq {s : State} {j : Fin 16} (h : s.sp.val = j.val + 1) :
    exec .ret s = .next ((s.setStack s.stack j.castSucc).setPc s.stack[j.val]) := by
  rw [exec, execRet, State.pop_of_sp_eq h]
  rfl

/-- What stays inside the stack and `pc` where 2nnn and 00EE complete. -/
theorem frame_setStack_setPc (s : State) (k : Vector Word 16) (d : Fin 17) (a : Word) :
    Frame s ((s.setStack k d).setPc a) { stack := true } := (((Within.refl s _).setStack rfl k d).setPc a).toFrame

/-- Settles O33: by the push of the return address. -/
theorem callPushesTheReturnAddress : Obligations.CallPushesTheReturnAddress :=
  fun nnn => ⟨(encode_selects_row (.call nnn)).2, fun s hsp =>
    ⟨_, exec_call_of_lt hsp nnn, frame_setStack_setPc s _ _ _, zextAddr_toNat nnn, rfl,
      fun j => stack_set_getElem s.stack ⟨s.sp.val, hsp⟩ j s.nextPc⟩⟩

/-- Settles O34: by the pop of the top entry. -/
theorem retPopsTheReturnAddress : Obligations.RetPopsTheReturnAddress :=
  ⟨(encode_selects_row .ret).2, fun s _ hsp => ⟨_, exec_ret_of_sp_eq hsp, frame_setStack_setPc s _ _ _, rfl, rfl, rfl⟩⟩

/-- Two instructions in a row stay inside a frame that holds both. -/
theorem Frame.trans {s t u : State} {c : Changes} (h : Frame s t c) (h' : Frame t u c) : Frame s u c where
  regs r hr := (h'.regs r hr).trans (h.regs r hr)
  index hc := (h'.index hc).trans (h.index hc)
  memory a ha := (h'.memory a ha).trans (h.memory a ha)
  stack hc := ⟨(h'.stack hc).1.trans (h.stack hc).1, (h'.stack hc).2.trans (h.stack hc).2⟩
  dt hc := (h'.dt hc).trans (h.dt hc)
  st hc := (h'.st hc).trans (h.st hc)
  screen hc x y := (h'.screen hc x y).trans (h.screen hc x y)
  keyWait hc := ⟨(h'.keyWait hc).1.trans (h.keyWait hc).1, (h'.keyWait hc).2.trans (h.keyWait hc).2⟩
  mode hc := (h'.mode hc).trans (h.mode hc)
  draws hc := (h'.draws hc).trans (h.draws hc)
  keys := h'.keys.trans h.keys
  params := h'.params.trans h.params

/-- Settles O35: the call (O33) leaves the return address in the entry that the return (O34) takes. -/
theorem returnResumesAfterTheCall : Obligations.ReturnResumesAfterTheCall := by
  intro nnn s hsp
  obtain ⟨t, hcall, hst, -, htsp, hentry⟩ := (callPushesTheReturnAddress nnn).2 s hsp
  obtain ⟨u, hret, htu, hpc, husp, hstack⟩ := retPopsTheReturnAddress.2 t ⟨s.sp.val, hsp⟩ htsp
  refine ⟨t, u, hcall, hret, ?_, Fin.ext husp, hst.trans htu, fun j hj => ?_⟩
  · rw [hpc, hentry, if_pos rfl]
  · rw [hstack, hentry, if_neg hj]

end Sys2Proof.Machine
end

section
/-! PROOFS. The registers (spec/42_register_alu.md R160 to R171, spec/44_keys_timers.md R213): what the two write-backs leave in the
registers, a completion rule for each, the flags as integers, then the statements. -/

namespace Sys2Proof.Machine

/-! ## Instructions that write one register -/

theorem State.writeResult_reg_self (s : State) (x : Reg) (r : Byte) : (s.writeResult x r).reg x = r := s.reg_setReg_self x r

/-- The rule of an instruction whose handler writes `r` to Vx, with `result` the integer that `r` stands for. -/
theorem onlyWritesRegister_of_exec {i : Instr} {x : Reg} {result : State → Nat} (r : State → Byte)
    (hexec : ∀ s, exec i s = .next (s.writeResult x (r s))) (hfoot : ∀ s, footprint s i = { regs := [x] })
    (hr : ∀ s, (r s).toNat = result s) : OnlyWritesRegister i x result := fun s =>
  hfoot s ▸ completes_of_exec (hexec s) ⟨(congrArg BitVec.toNat (s.writeResult_reg_self x (r s))).trans (hr s), rfl⟩

/-- Settles O37: each loads the byte it names. -/
theorem loadsWriteVxOnly : Obligations.LoadsWriteVxOnly :=
  ⟨fun x kk => ⟨(encode_selects_row (.ldByte x kk)).2,
      onlyWritesRegister_of_exec (fun _ => kk) (fun _ => rfl) (fun _ => rfl) fun _ => rfl⟩,
    fun x => ⟨(encode_selects_row (.ldVxDt x)).2,
      onlyWritesRegister_of_exec (fun s => s.dt) (fun _ => rfl) (fun _ => rfl) fun _ => rfl⟩⟩

/-- Settles O38: the sum, the copy and the three bitwise results are those of the values. -/
theorem addImmediateCopyAndLogicWriteVxOnly : Obligations.AddImmediateCopyAndLogicWriteVxOnly :=
  ⟨fun x kk => ⟨(encode_selects_row (.addByte x kk)).2,
      onlyWritesRegister_of_exec (fun s => s.reg x + kk) (fun _ => rfl) (fun _ => rfl) fun s => BitVec.toNat_add (s.reg x) kk⟩,
    fun x y => ⟨(encode_selects_row (.ldReg x y)).2,
      onlyWritesRegister_of_exec (fun s => s.reg y) (fun _ => rfl) (fun _ => rfl) fun _ => rfl⟩,
    fun x y => ⟨(encode_selects_row (.orReg x y)).2,
      onlyWritesRegister_of_exec (fun s => s.reg x ||| s.reg y) (fun _ => rfl) (fun _ => rfl) fun s =>
        BitVec.toNat_or (s.reg x) (s.reg y)⟩,
    fun x y => ⟨(encode_selects_row (.andReg x y)).2,
      onlyWritesRegister_of_exec (fun s => s.reg x &&& s.reg y) (fun _ => rfl) (fun _ => rfl) fun s =>
        BitVec.toNat_and (s.reg x) (s.reg y)⟩,
    fun x y => ⟨(encode_selects_row (.xorReg x y)).2,
      onlyWritesRegister_of_exec (fun s => s.reg x ^^^ s.reg y) (fun _ => rfl) (fun _ => rfl) fun s =>
        BitVec.toNat_xor (s.reg x) (s.reg y)⟩⟩

/-- A masked byte has no bit outside the mask. -/
theorem and_mask_and_not_mask (b mask : Byte) : b &&& mask &&& ~~~mask = 0 := by
  rw [BitVec.and_assoc, BitVec.and_not_self]
  exact BitVec.and_zero

/-- Settles O40: Vx holds the masked draw, whatever byte it is. -/
theorem rndMasksAFreeByte : Obligations.RndMasksAFreeByte := by
  refine fun x kk => ⟨(encode_selects_row (.rnd x kk)).2, fun s => completes_of_exec rfl ?_⟩
  have hreg : (s.rndWith x kk s.rndDraw).useDraw.reg x = s.rndDraw &&& kk := s.writeResult_reg_self x _
  rw [hreg]
  exact ⟨BitVec.toNat_and s.rndDraw kk, and_mask_and_not_mask s.rndDraw kk, rfl, rfl⟩

/-! ## Instructions that write a flag and a result -/

section
variable (s : State) (flag result : Byte)

theorem State.writeArith_reg_self {x : Reg} (hx : x ≠ vf) : (s.writeArith x flag result).reg x = result := by
  simp [State.writeArith, State.reg_writeFlagResult, hx]

theorem State.writeArith_reg_vf_of_ne {x : Reg} (hx : x ≠ vf) : (s.writeArith x flag result).reg vf = flag := by
  simp [State.writeArith, State.reg_writeFlagResult, hx.symm]

/-- R34: where the destination is VF, the later of the two writes remains. -/
theorem State.writeArith_vf_reg_vf :
    (s.writeArith vf flag result).reg vf = if s.params.vfOrder = .resultLast then result else flag := by
  simp [State.writeArith, State.reg_writeFlagResult]

end

/-- The rule of an instruction whose handler writes the flag `f` and the result `r`, with the integers they stand for. -/
theorem writesFlagAndResult_of_exec {i : Instr} {x : Reg} {flag result : State → Nat} (f r : State → Byte)
    (hexec : ∀ s, exec i s = .next (s.writeArith x (f s) (r s))) (hfoot : ∀ s, footprint s i = { regs := [x, vf] })
    (hf : ∀ s, (f s).toNat = flag s) (hr : ∀ s, (r s).toNat = result s) : WritesFlagAndResult i x flag result := by
  refine fun s => hfoot s ▸ completes_of_exec (hexec s) ⟨rfl, fun hx => ?_, ?_, ?_⟩
  · rw [State.writeArith_reg_self _ _ _ hx, State.writeArith_reg_vf_of_ne _ _ _ hx]
    exact ⟨hr s, hf s⟩
  · rintro rfl horder
    rw [State.writeArith_vf_reg_vf, if_pos horder, hr]
  · rintro rfl horder
    rw [State.writeArith_vf_reg_vf, if_neg (by simp [horder]), hf]

/-! ### The flags and the results as integers -/

theorem carryFlag_toNat (a b : Byte) : (carryFlag a b).toNat = if a.toNat + b.toNat > 255 then 1 else 0 :=
  (flagByte_toNat _).trans (if_congr decide_eq_true_iff rfl rfl)

theorem noBorrowFlag_toNat (a b : Byte) : (noBorrowFlag a b).toNat = if a.toNat ≥ b.toNat then 1 else 0 :=
  (flagByte_toNat _).trans (if_congr decide_eq_true_iff rfl rfl)

theorem shiftRightFlag_toNat (a : Byte) : (shiftRightFlag a).toNat = a.toNat % 2 :=
  (BitVec.toNat_and a 1).trans (Nat.and_one_is_mod a.toNat)

theorem byte_ushiftRight_toNat (a : Byte) (n : Nat) : (a >>> n).toNat = a.toNat / 2 ^ n := by
  rw [BitVec.toNat_ushiftRight, Nat.shiftRight_eq_div_pow]

/-- Bit 7 is bit 0 of the byte shifted down by 7. -/
theorem shiftLeftFlag_toNat (a : Byte) : (shiftLeftFlag a).toNat = a.toNat / 128 := by
  rw [show shiftLeftFlag a = shiftRightFlag (a >>> 7) from rfl, shiftRightFlag_toNat, byte_ushiftRight_toNat]
  omega

theorem byte_sub_toNat (a b : Byte) : (a - b).toNat = (a.toNat + 256 - b.toNat) % 256 := by bv_omega

theorem byte_shiftLeft_one_toNat (a : Byte) : (a <<< 1).toNat = a.toNat * 2 % 256 := by
  rw [BitVec.toNat_shiftLeft, Nat.shiftLeft_eq]

/-- Settles O39: each of the five writes the flag and the result of the operands it started with. -/
theorem arithmeticWritesResultAndFlag : Obligations.ArithmeticWritesResultAndFlag := fun x y =>
  ⟨⟨(encode_selects_row (.addReg x y)).2,
      writesFlagAndResult_of_exec (fun s => carryFlag (s.reg x) (s.reg y)) (fun s => s.reg x + s.reg y) (fun _ => rfl)
        (fun _ => rfl) (fun _ => carryFlag_toNat _ _) fun s => BitVec.toNat_add (s.reg x) (s.reg y)⟩,
    ⟨(encode_selects_row (.subReg x y)).2,
      writesFlagAndResult_of_exec (fun s => noBorrowFlag (s.reg x) (s.reg y)) (fun s => s.reg x - s.reg y) (fun _ => rfl)
        (fun _ => rfl) (fun _ => noBorrowFlag_toNat _ _) fun _ => byte_sub_toNat _ _⟩,
    ⟨(encode_selects_row (.shr x y)).2,
      writesFlagAndResult_of_exec (fun s => shiftRightFlag (s.reg x)) (fun s => s.reg x >>> 1) (fun _ => rfl)
        (fun _ => rfl) (fun _ => shiftRightFlag_toNat _) fun _ => byte_ushiftRight_toNat _ 1⟩,
    ⟨(encode_selects_row (.subnReg x y)).2,
      writesFlagAndResult_of_exec (fun s => noBorrowFlag (s.reg y) (s.reg x)) (fun s => s.reg y - s.reg x) (fun _ => rfl)
        (fun _ => rfl) (fun _ => noBorrowFlag_toNat _ _) fun _ => byte_sub_toNat _ _⟩,
    ⟨(encode_selects_row (.shl x y)).2,
      writesFlagAndResult_of_exec (fun s => shiftLeftFlag (s.reg x)) (fun s => s.reg x <<< 1) (fun _ => rfl)
        (fun _ => rfl) (fun _ => shiftLeftFlag_toNat _) fun _ => byte_shiftLeft_one_toNat _⟩⟩

end Sys2Proof.Machine
end

section
/-! PROOFS. The index register and the memory transfers (spec/43_index_memory.md R190 to R196): the sums of `I` as integers, the decimal
digits as integers, what an indexed write leaves at the other offsets, then the statements, each within the footprint of its instruction. -/

namespace Sys2Proof.Machine

/-! ## The index register -/

theorem add_zextByte_toNat (a : Word) (b : Byte) : (a + zextByte b).toNat = (a.toNat + b.toNat) % 65536 := by
  rw [BitVec.toNat_add, zextByte, BitVec.toNat_setWidth_of_le (by decide)]

/-- R192: five times a byte is at most 1275, so a word holds it. -/
theorem ofNat_byte_mul_five_toNat (b : Byte) : (BitVec.ofNat 16 (b.toNat * 5)).toNat = b.toNat * 5 := by
  rw [BitVec.toNat_ofNat]
  omega

/-- Settles O41: both words keep the integer they are made from. -/
theorem loadIndexAndGlyphAddress : Obligations.LoadIndexAndGlyphAddress :=
  ⟨fun nnn => ⟨(encode_selects_row (.ldI nnn)).2, fun _ => completes_of_exec rfl ⟨zextAddr_toNat nnn, rfl⟩⟩,
    fun x => ⟨(encode_selects_row (.ldF x)).2, fun s => completes_of_exec rfl ⟨ofNat_byte_mul_five_toNat (s.reg x), rfl⟩⟩⟩

/-- Settles O42: the sum is the word's own. -/
theorem addToIndexWrapsAtSixteenBits : Obligations.AddToIndexWrapsAtSixteenBits :=
  fun x => ⟨(encode_selects_row (.addI x)).2, fun s => completes_of_exec rfl ⟨add_zextByte_toNat s.i (s.reg x), rfl⟩⟩

/-! ## The decimal digits -/

theorem hundredsDigit_toNat (b : Byte) : (hundredsDigit b).toNat = b.toNat / 100 := by
  rw [hundredsDigit, BitVec.toNat_ofNat]
  omega

theorem tensDigit_toNat (b : Byte) : (tensDigit b).toNat = b.toNat / 10 % 10 := by
  rw [tensDigit, BitVec.toNat_ofNat]
  omega

theorem onesDigit_toNat (b : Byte) : (onesDigit b).toNat = b.toNat % 10 := by
  rw [onesDigit, BitVec.toNat_ofNat]
  omega

/-! ## Accesses relative to `I` -/

/-- The byte at a reduced address is the byte at the address (R53, D3). -/
theorem State.memRead_mod (s : State) (a : Nat) : s.memRead (a % 4096) = s.memRead a := congrArg s.mem.read (dataAddr_mod a)

/-- Two offsets inside the address space do not meet, also where the range wraps. -/
theorem dataAddr_add_ne {j k : Nat} (hjk : j < k) (hk : k < memSize) (a : Nat) : dataAddr (a + j) ≠ dataAddr (a + k) := by
  simp only [dataAddr, memSize] at *
  omega

section
variable {s : State} (hs : s.mem.wf)
include hs

theorem State.memRead_writeIndexed_self (k : Nat) (b : Byte) : (s.writeIndexed k b).memRead (s.i.toNat + k) = b := by
  rw [State.memRead_writeIndexed hs, if_pos rfl]

/-- A write leaves the bytes at the offsets below its own. -/
theorem State.memRead_writeIndexed_of_lt {j k : Nat} (hjk : j < k) (hk : k < memSize) (b : Byte) :
    (s.writeIndexed k b).memRead (s.i.toNat + j) = s.memRead (s.i.toNat + j) := by
  rw [State.memRead_writeIndexed hs, if_neg (dataAddr_add_ne hjk hk _)]

/-- Fx33 writes at rising offsets, so each digit stays as the later ones are written. -/
theorem exec_ldB_memRead {t : State} {x : Reg} (h : exec (.ldB x) s = .next t) :
    t.memRead s.i.toNat = hundredsDigit (s.reg x) ∧ t.memRead (s.i.toNat + 1) = tensDigit (s.reg x) ∧
    t.memRead (s.i.toNat + 2) = onesDigit (s.reg x) := by
  cases h
  have hs0 := State.writeIndexed_wf 0 (hundredsDigit (s.reg x)) hs
  have hs1 := State.writeIndexed_wf 1 (tensDigit (s.reg x)) hs0
  have keep1 := State.memRead_writeIndexed_of_lt hs0 (j := 0) (k := 1) (by decide) (by decide) (tensDigit (s.reg x))
  have keep2 {j : Nat} (hj : j < 2) := State.memRead_writeIndexed_of_lt hs1 hj (by decide) (onesDigit (s.reg x))
  exact ⟨((keep2 (j := 0) (by decide)).trans keep1).trans (State.memRead_writeIndexed_self hs 0 _),
    (keep2 (j := 1) (by decide)).trans (State.memRead_writeIndexed_self hs0 1 _), State.memRead_writeIndexed_self hs1 2 _⟩

end

/-- Settles O43: the three bytes Fx33 writes are the three digits. -/
theorem bcdStoresThreeDigits : Obligations.BcdStoresThreeDigits := by
  refine fun x => ⟨(encode_selects_row (.ldB x)).2, fun s hs => completes_of_exec rfl ?_⟩
  obtain ⟨hhundreds, htens, hones⟩ := exec_ldB_memRead hs (x := x) rfl
  rw [State.memRead_mod, State.memRead_mod, State.memRead_mod, hhundreds, htens, hones]
  exact ⟨hundredsDigit_toNat _, tensDigit_toNat _, onesDigit_toNat _, rfl⟩

/-- Settles O44: the store loop puts each register at its offset. -/
theorem storeRegistersWritesTheRange : Obligations.StoreRegistersWritesTheRange := by
  refine fun x => ⟨(encode_selects_row (.storeRegs x)).2, fun s hs => completes_of_exec rfl ⟨fun k hk => ?_, rfl⟩⟩
  rw [State.advance_memRead]
  exact State.memRead_storeFirst_of_mem hs x.isLt k (Nat.lt_succ_of_le hk) (dataAddr_mod _)

/-- Settles O45: the load loop fills each register up to Vx from its offset. -/
theorem loadRegistersReadsTheRange : Obligations.LoadRegistersReadsTheRange := by
  refine fun x => ⟨(encode_selects_row (.loadRegs x)).2, fun s => completes_of_exec rfl ⟨fun k hk => ?_, rfl⟩⟩
  rw [State.advance_reg, State.reg_loadFirst s x.isLt, if_pos (Nat.lt_succ_of_le hk), State.memRead_mod]

end Sys2Proof.Machine
end

section
/-! PROOFS. The key and timer instructions and the key-wait (spec/44_keys_timers.md R210 to R217): the model's pick is the one of R215,
the two outcomes of a poll and of Fx0A with the condition of each, then the statements. -/

namespace Sys2Proof.Machine

/-! ## The key picked and captured -/

/-- R215, D13: the model's pick from a list is `Pick` of the keys that the list holds. -/
theorem pickKey_isPick {N : Key → Prop} {k : Key} {ks : List Key} (hN : ∀ {j}, j ∈ k :: ks ↔ N j) (kd : Key) :
    IsPick N kd (pickKey k ks kd) := by
  obtain ⟨hdrawn, hleast⟩ := pickKey_spec k ks kd
  exact ⟨hN.mp (pickKey_mem k ks kd), fun h => hdrawn (hN.mpr h), fun h j hj => hleast (mt hN.mp h) j (hN.mpr hj)⟩

theorem State.captureKey_reg_toNat (s : State) (x : Reg) (k : Key) : ((s.captureKey x k).reg x).toNat = k.val := by
  rw [State.captureKey, State.advance_reg, State.reg_setReg_self, BitVec.toNat_ofNat]
  omega

/-! ## The poll -/

theorem step_of_awaitKey {s : State} (hm : s.mode = .awaitKey) : step s = .next (s.pollWith s.keyDraw) := by
  rw [step, State.cycle, hm]
  rfl

section
variable {s : State} (kd : Key)

theorem State.pollWith_of_none (h : ∀ k, ¬ Qualifies s k) : s.pollWith kd = s.setKeyWait s.kwReg s.keys := by
  obtain ⟨-, hpoll⟩ | ⟨k, hk, -⟩ := s.pollWith_cases kd
  · exact hpoll
  · exact absurd (State.mem_qualifying.mp hk) (h k)

/-- A poll at which a key qualifies captures the picked one and ends the wait. -/
theorem State.pollWith_of_qualifies (h : ∃ k, Qualifies s k) :
    ∃ k, IsPick (Qualifies s) kd k ∧ s.pollWith kd = ((s.captureKey s.kwReg k).setMode .run).useDraw := by
  obtain ⟨j, hj⟩ := h
  unfold State.pollWith
  split
  next hnone => exact absurd (State.mem_qualifying.mpr hj) (hnone ▸ List.not_mem_nil)
  next k ks hsome => exact ⟨_, pickKey_isPick (hsome ▸ State.mem_qualifying) kd, rfl⟩

end

/-- Settles O50: by the two outcomes of the poll, for the draw the step uses. -/
theorem keyWaitPollCapturesAQualifyingKey : Obligations.KeyWaitPollCapturesAQualifyingKey := by
  intro s hm
  rw [step_of_awaitKey hm]
  refine ⟨fun hnone => ?_, fun hsome => ?_⟩
  · rw [State.pollWith_of_none s.keyDraw hnone]
    rfl
  · obtain ⟨k, hpick, hpoll⟩ := State.pollWith_of_qualifies s.keyDraw hsome
    refine ⟨_, congrArg Host.Outcome.next hpoll, ?_, rfl, rfl, rfl, k, hpick, s.captureKey_reg_toNat s.kwReg k⟩
    exact (((((Within.refl s _).setReg (List.mem_singleton_self _) _).setPc _).setMode rfl _).useDraw rfl).toFrame

/-- Settles O51: the captured key qualifies, and a qualifying key is captured when it is the one drawn. -/
theorem everyQualifyingKeyIsCapturedForSomeDraw : Obligations.EveryQualifyingKeyIsCapturedForSomeDraw := by
  intro s j hsome
  have captured (kd : Key) : ∃ k, IsPick (Qualifies s) kd k ∧ ((s.pollWith kd).reg s.kwReg).toNat = k.val := by
    obtain ⟨k, hpick, hpoll⟩ := State.pollWith_of_qualifies kd hsome
    exact ⟨k, hpick, hpoll ▸ s.captureKey_reg_toNat s.kwReg k⟩
  constructor
  · rintro ⟨kd, hj⟩
    obtain ⟨k, ⟨hk, -, -⟩, hreg⟩ := captured kd
    exact Fin.ext (hreg.symm.trans hj) ▸ hk
  · intro hj
    obtain ⟨k, ⟨-, hdrawn, -⟩, hreg⟩ := captured j
    exact ⟨j, hdrawn hj ▸ hreg⟩

/-! ## Timer loads and key skips -/

/-- Settles O47: each handler loads its one timer. -/
theorem timerLoads : Obligations.TimerLoads :=
  ⟨fun x => ⟨(encode_selects_row (.ldDtVx x)).2, fun _ => completes_of_exec rfl ⟨rfl, rfl⟩⟩,
    fun x => ⟨(encode_selects_row (.ldStVx x)).2, fun _ => completes_of_exec rfl ⟨rfl, rfl⟩⟩⟩

section
variable {s : State} {x : Reg} (c : Key → Bool)

theorem keySkip_of_key {k : Key} (h : (s.reg x).toNat = k.val) :
    orRaise s ((s.keyIndex (s.reg x)).map (fun k => s.skipIf (c k))) = .next (s.skipIf (c k)) := by
  have hlt : (s.reg x).toNat < 16 := h ▸ k.isLt
  have hk : (⟨(s.reg x).toNat, hlt⟩ : Key) = k := Fin.ext h
  rw [keySkip_eq, dif_pos hlt, hk]

theorem keySkip_of_no_key (h : (s.reg x).toNat > 15) :
    orRaise s ((s.keyIndex (s.reg x)).map (fun k => s.skipIf (c k))) = raise (.keyIndexOutOfRange (s.reg x) s.pc) s := by
  rw [keySkip_eq, dif_neg (Nat.not_lt.mpr h)]

end

theorem State.skipIf_frame (s : State) (b : Bool) : Frame s (s.skipIf b) {} := ((Within.refl s _).setPc _).toFrame

theorem State.skipIf_not_pc (s : State) (b : Bool) : (s.skipIf !b).pc = if b = true then s.pc + 2 else s.pc + 4 := by
  cases b <;> rfl

/-- Settles O48: both skips are the key skip, on the latch and on its negation. -/
theorem keySkipsTestTheLatch : Obligations.KeySkipsTestTheLatch := by
  refine fun x => ⟨(encode_selects_row (.skp x)).2, (encode_selects_row (.sknp x)).2, fun s k hk => ⟨?_, ?_⟩, fun s h => ⟨?_, ?_⟩⟩
  · exact ⟨_, keySkip_of_key s.keyDown hk, s.skipIf_frame _, rfl⟩
  · exact ⟨_, keySkip_of_key (fun j => !s.keyDown j) hk, s.skipIf_frame _, s.skipIf_not_pc (s.keyDown k)⟩
  · exact keySkip_of_no_key s.keyDown h
  · exact keySkip_of_no_key (fun j => !s.keyDown j) h

/-! ## Fx0A -/

section
variable {s : State} (x : Reg) (kd : Key)

theorem State.mem_keysHeld {k : Key} : k ∈ s.keysHeld ↔ s.keys[k.val] = true := by simp [State.keysHeld]

theorem State.keyWaitWith_of_wait (h : s.params.keyTrigger = .edge ∨ ∀ k : Key, s.keys[k.val] = false) :
    s.keyWaitWith x kd = s.enterKeyWait x := by
  obtain hedge | hnone := h <;> unfold State.keyWaitWith
  · rw [hedge]
  · have hheld : s.keysHeld = [] :=
      List.eq_nil_iff_forall_not_mem.mpr fun k hk => Bool.noConfusion ((State.mem_keysHeld.mp hk).symm.trans (hnone k))
    rw [hheld]
    split <;> rfl

theorem State.keyWaitWith_of_held (hlevel : s.params.keyTrigger = .level) (h : ∃ k : Key, s.keys[k.val] = true) :
    ∃ k, IsPick (fun j => s.keys[j.val] = true) kd k ∧ s.keyWaitWith x kd = (s.captureKey x k).useDraw := by
  obtain ⟨j, hj⟩ := h
  unfold State.keyWaitWith
  rw [hlevel]
  dsimp only
  split
  next hnone => exact absurd (State.mem_keysHeld.mpr hj) (hnone ▸ List.not_mem_nil)
  next k ks hsome => exact ⟨_, pickKey_isPick (hsome ▸ State.mem_keysHeld) kd, rfl⟩

end

/-- Settles O49: by the two outcomes of Fx0A, for the draw it uses. -/
theorem keyWaitEntry : Obligations.KeyWaitEntry := by
  refine fun x => ⟨(encode_selects_row (.ldVxK x)).2, fun s hwait => ?_, fun s hlevel hheld => ?_⟩
  · refine ⟨_, congrArg Host.Outcome.next (State.keyWaitWith_of_wait x s.keyDraw hwait), ?_, rfl, rfl, rfl, rfl⟩
    exact (((Within.refl s _).setKeyWait rfl _ _).setMode rfl _).toFrame
  · obtain ⟨k, hpick, hcapture⟩ := State.keyWaitWith_of_held x s.keyDraw hlevel hheld
    refine ⟨_, congrArg Host.Outcome.next hcapture, ?_, ⟨k, hpick, s.captureKey_reg_toNat x k⟩, rfl, rfl⟩
    exact ((((Within.refl s _).setReg (List.mem_singleton_self _) _).setPc _).useDraw rfl).toFrame

end Sys2Proof.Machine
end

section
/-! PROOFS. Halting and the host's ports (spec/60_exceptions.md R230 to R249): that every step answers a next state, which words raise
`UnknownOpcode`, what moves the call stack, what a halted core still lets the host do, then the tick, the read ports and the latch. -/

namespace Sys2Proof.Machine

/-! ## Every step answers a next state -/

/-- A handler that checks before it writes answers its new state or the halted one. -/
theorem orRaise_answers (s : State) (r : Except FatalStatus State) : ∃ t, orRaise s r = .next t := by
  cases r with
  | ok t => exact ⟨t, rfl⟩
  | error f => exact ⟨s.setMode (.halted f), rfl⟩

theorem exec_answers (i : Instr) (s : State) : ∃ t, exec i s = .next t := by
  cases i
  case ret | call | skp | sknp => exact orRaise_answers s _
  all_goals exact ⟨_, rfl⟩

/-- Settles O14: every handler answers a next state, and so do the ways a `cycle()` can go that run none. -/
theorem everyStepAnswersANextState : Obligations.EveryStepAnswersANextState := by
  intro s
  change ∃ t, s.cycle = .next t
  obtain ⟨f, -, hc⟩ | ⟨-, hc⟩ | ⟨-, -, hc⟩ | ⟨w, r, -, -, -, hc⟩ | ⟨w, i, -, -, -, hc⟩ := s.cycle_cases <;> rw [hc]
  · exact ⟨s, rfl⟩
  · exact ⟨s.keyWaitPoll, rfl⟩
  · exact ⟨s.setMode (.halted .outOfBounds), rfl⟩
  · exact ⟨s.setMode (.halted (.unknownOpcode w s.pc)), rfl⟩
  · exact exec_answers i s

/-! ## `UnknownOpcode` -/

/-- A running core halts on a fetched word that has no row. -/
theorem step_of_fetch_undecodable {s : State} {w : Word} {r : Reject} (hm : s.mode = .run) (hf : s.fetch = .ok w)
    (hd : decodeWord w = .error r) : step s = .next (s.setMode (.halted (.unknownOpcode w s.pc))) := by
  simp only [step, State.cycle, hm, State.runCycle, hf, hd]
  rfl

/-- No handler raises `UnknownOpcode`. -/
theorem exec_mode_ne_unknownOpcode {i : Instr} {s t : State} (hm : s.mode = .run) (h : exec i s = .next t) (raw a : Word) :
    t.mode ≠ .halted (.unknownOpcode raw a) := by
  intro ht
  obtain ⟨hmode, -, -⟩ | ⟨f, rfl, -, -, hf⟩ | ⟨x, -, rfl⟩ := exec_next_cases h
  · rw [hmode, hm] at ht
    cases ht
  · cases ht
    exact hf raw a rfl
  · cases ht

/-- Settles O9: the decoder decides between the raise, which names the word and `pc`, and a handler, which raises no such status. -/
theorem unknownOpcodeIsRaisedExactlyOnUndecodableWords : Obligations.UnknownOpcodeIsRaisedExactlyOnUndecodableWords := by
  intro s w raw a hm hf
  constructor
  · intro h
    cases hd : decodeWord w with
    | ok i =>
      rw [step_of_fetch hm hf hd] at h
      exact absurd rfl (exec_mode_ne_unknownOpcode hm h raw a)
    | error r =>
      rw [step_of_fetch_undecodable hm hf hd] at h
      obtain ⟨rfl, rfl⟩ : w = raw ∧ s.pc = a := by simpa using congrArg State.mode (Host.Outcome.next.inj h)
      exact ⟨⟨r, rfl⟩, rfl, rfl⟩
  · rintro ⟨⟨r, hd⟩, rfl, rfl⟩
    exact step_of_fetch_undecodable hm hf hd

/-! ## The call stack -/

theorem exec_call_of_full {s : State} (h : s.sp.val = 16) (nnn : Addr12) : exec (.call nnn) s = raise .stackOverflow s := by
  rw [exec, execCall_eq, dif_neg (by omega)]

theorem exec_ret_of_empty {s : State} (h : s.sp.val = 0) : exec .ret s = raise .stackUnderflow s := by
  rw [exec, execRet_eq, dif_neg (by omega)]

/-- 2nnn raises SP, or halts and leaves the stack. -/
theorem exec_call_stack {s t : State} {nnn : Addr12} (h : exec (.call nnn) s = .next t) :
    t.sp.val = s.sp.val + 1 ∨ t.stack = s.stack ∧ t.sp = s.sp := by
  rw [exec, execCall_eq] at h
  split at h <;> cases h
  · exact .inl rfl
  · exact .inr ⟨rfl, rfl⟩

/-- 00EE lowers SP, or halts; either way it leaves the entries. -/
theorem exec_ret_stack {s t : State} (h : exec .ret s = .next t) :
    t.stack = s.stack ∧ (t.sp.val + 1 = s.sp.val ∨ t.sp = s.sp) := by
  rw [exec, execRet_eq] at h
  split at h <;> cases h
  next hsp => exact ⟨rfl, .inl (Nat.sub_add_cancel hsp)⟩
  next => exact ⟨rfl, .inr rfl⟩

/-- What the stack does under any instruction: a push by 2nnn, a pop by 00EE, or nothing. -/
theorem exec_stack_cases {i : Instr} {s t : State} (h : exec i s = .next t) :
    ((∃ nnn, i = .call nnn) ∧ t.sp.val = s.sp.val + 1) ∨ (i = .ret ∧ t.sp.val + 1 = s.sp.val ∧ t.stack = s.stack) ∨
    (t.stack = s.stack ∧ t.sp = s.sp) := by
  by_cases hst : (footprint s i).stack = true
  · obtain rfl | ⟨nnn, rfl⟩ := footprint_stack hst
    · obtain ⟨hstack, hsp | hsp⟩ := exec_ret_stack h
      · exact .inr (.inl ⟨rfl, hsp, hstack⟩)
      · exact .inr (.inr ⟨hstack, hsp⟩)
    · obtain hsp | hkept := exec_call_stack h
      · exact .inl ⟨⟨nnn, rfl⟩, hsp⟩
      · exact .inr (.inr hkept)
  · exact .inr (.inr ((exec_frame h).stack (by simpa using hst)))

/-- Settles O10: both misuses are the raise, and of the ways the stack can go only the push and the pop move it. -/
theorem stackMisuseHaltsAndOnlyCallAndRetMoveTheStack : Obligations.StackMisuseHaltsAndOnlyCallAndRetMoveTheStack := by
  refine ⟨fun _ nnn hsp => exec_call_of_full hsp nnn, fun _ => exec_ret_of_empty, fun i s t h hmoved => ?_⟩
  obtain hpush | hpop | ⟨hstack, hsp⟩ := exec_stack_cases h
  · exact .inl hpush
  · exact .inr hpop
  · exact absurd hmoved (by simp [hstack, hsp])

/-! ## The halted core -/

theorem step_of_halted {s : State} {f : FatalStatus} (hm : s.mode = .halted f) : step s = .next s := by
  rw [step, State.cycle, hm]

/-- The host can move `mode` and `pc` only by `cycle()` and `reset()`. -/
theorem transact_keeps_mode_pc {s t : State} {tr : Transaction} (hcycle : tr ≠ .cycle) (hreset : tr ≠ .reset)
    (h : s.transact tr = .next t) : t.mode = s.mode ∧ t.pc = s.pc := by
  have written (a : Nat) (bytes : List Byte) : (s.writeBytes a bytes).mode = s.mode ∧ (s.writeBytes a bytes).pc = s.pc := by
    obtain ⟨m, hm⟩ := s.writeBytes_eq_setMem a bytes
    rw [hm]
    exact ⟨rfl, rfl⟩
  cases tr with
  | cycle => exact absurd rfl hcycle
  | reset => exact absurd rfl hreset
  | framebuffer | soundActive | tickTimers | setKey => cases h; exact ⟨rfl, rfl⟩
  | loadFont => cases h; exact written 0 _
  | loadProgram bytes =>
    rw [State.transact, State.loadProgram] at h
    split at h <;> cases h
    exact written 0x200 bytes

/-- Settles O12: `cycle()` answers the halted state itself, `reset()` a running one, and the other transactions keep `mode` and `pc`. -/
theorem haltedCoreLeavesOnlyByReset : Obligations.HaltedCoreLeavesOnlyByReset := by
  intro s f hm
  have hstep := step_of_halted hm
  refine ⟨hstep, ?_, fun tr t hreset h => ?_, reinit s, rfl, rfl⟩
  · rw [State.cycleStatus_of_step hstep, hm]
    rfl
  · by_cases hcycle : tr = .cycle
    · subst hcycle
      obtain rfl : s = t := Host.Outcome.next.inj (hstep.symm.trans h)
      exact ⟨hm, rfl⟩
    · rw [← hm]
      exact transact_keeps_mode_pc hcycle hreset h

/-! ## The tick, the read ports and the latch -/

/-- Settles O52: the floored decrement of each timer, inside the frame of the two timer writes. -/
theorem tickDecrementsBothTimersToAFloor : Obligations.TickDecrementsBothTimersToAFloor := by
  intro s
  have hdt : s.tickTimers.dt.toNat = s.dt.toNat - 1 := tick_toNat s.dt
  have hst : s.tickTimers.st.toNat = s.st.toNat - 1 := tick_toNat s.st
  refine ⟨s.tickTimers, rfl, (((Within.refl s _).setDt rfl _).setSt rfl _).toFrame, rfl, ?_⟩
  omega

theorem State.soundActive_iff {s : State} : s.soundActive = true ↔ s.st ≠ 0 :=
  decide_eq_true_iff.trans (Nat.pos_iff_ne_zero.trans (BitVec.toNat_ne_iff_ne (y := 0)))

/-- Settles O53: both leave the state, and the level is on exactly while the sound timer is not 0. -/
theorem readPortsReturnAndChangeNothing : Obligations.ReadPortsReturnAndChangeNothing := by
  refine fun s => ⟨rfl, rfl, rfl, fun hst => ?_, fun hst => ?_⟩
  · exact congrArg Response.level (State.soundActive_iff.mpr hst)
  · exact congrArg Response.level (Bool.eq_false_iff.mpr fun hon => State.soundActive_iff.mp hon hst)

/-- Settles O54: the latch with one entry set. -/
theorem setKeyWritesOneKey : Obligations.SetKeyWritesOneKey := by
  refine fun s k p => ⟨s.keys.set k.val p, rfl, fun j => ?_⟩
  rw [Vector.getElem_set]
  exact if_congr (Fin.val_inj.trans eq_comm) rfl rfl

end Sys2Proof.Machine
end

section
/-! PROOFS. Parking, loading and reset (spec/70_reset_and_hazards.md R260 to R276): the word of a jump to itself, what a run of byte
writes by the host leaves and reads back as, and the items of the state `reset()` leaves. -/

namespace Sys2Proof.Machine

/-! ## The parked state -/

/-- The word of 1nnn is its opcode bits with the target in the low 12 (R133). -/
theorem encode_jp (nnn : Addr12) : encode (.jp nnn) = 0x1000#16 ||| zextAddr nnn := rfl

/-- A `pc` that fetches fits in the address field of a jump (R55). -/
theorem zextAddr_setWidth_of_le {a : Word} (h : a ≤ lastFetch) : zextAddr (a.setWidth 12) = a := by
  rw [le_lastFetch_iff] at h
  unfold zextAddr
  bv_omega

/-- Settles O25: the word at `pc` is a jump whose target is `pc`, and the jump writes nothing but `pc`. -/
theorem parkedStateStepsToItself : Obligations.ParkedStateStepsToItself := by
  rintro s ⟨hmode, hpc, hfetch⟩
  have htarget := zextAddr_setWidth_of_le hpc
  have hdecode : decodeWord (0x1000#16 ||| s.pc) = .ok (.jp (s.pc.setWidth 12)) := by
    have hjp := decodeWord_encode (i := .jp (s.pc.setWidth 12)) rfl
    rwa [encode_jp, htarget] at hjp
  have hstep : step s = .next s := calc
    step s = .next (s.setPc (zextAddr (s.pc.setWidth 12))) := step_of_fetch hmode hfetch hdecode
    _ = .next s := by rw [htarget]; rfl
  refine ⟨hstep, ?_⟩
  rw [State.cycleStatus_of_step hstep, hmode]
  rfl

/-! ## The host's byte writes -/

theorem Within.writeBytes {s t : State} {c : Changes} (h : Within s t c) {a : Nat} {bytes : List Byte}
    (ha : ∀ k < bytes.length, dataAddr (a + k) ∈ c.stored) : Within s (t.writeBytes a bytes) c := by
  induction bytes generalizing t a with
  | nil => exact h
  | cons b rest ih =>
    have hfirst : dataAddr a ∈ c.stored := ha 0 (by simp)
    have hrest : ∀ k < rest.length, dataAddr (a + 1 + k) ∈ c.stored := fun k hk => by
      rw [Nat.add_assoc, Nat.add_comm 1 k]
      exact ha (k + 1) (by simpa using hk)
    exact ih (h.memWrite hfirst b) hrest

section
variable {s : State} {a : Nat} {bytes : List Byte} (hl : a + bytes.length ≤ memSize)
include hl

/-- Inside the address space the addresses written are the unreduced ones. -/
theorem State.writeBytes_frame : Frame s (s.writeBytes a bytes) { stored := (List.range bytes.length).map (a + ·) } := by
  refine ((Within.refl s _).writeBytes fun k hk => ?_).toFrame
  rw [dataAddr_of_lt (by omega)]
  exact List.mem_map_of_mem (List.mem_range.mpr hk)

theorem State.memRead_writeBytes_add (hs : s.mem.wf) {k : Nat} (hk : k < bytes.length) :
    (s.writeBytes a bytes).memRead (a + k) = bytes[k] := by
  have hda : dataAddr (a + k) = a + k := dataAddr_of_lt (by omega)
  rw [State.memRead_writeBytes hs a bytes hl, dif_pos (by omega)]
  simp [hda]

end

theorem State.writeBytes_pc (s : State) (a : Nat) (bytes : List Byte) : (s.writeBytes a bytes).pc = s.pc := by
  obtain ⟨m, hm⟩ := s.writeBytes_eq_setMem a bytes
  rw [hm, State.setMem_pc]

/-- Settles O55: `load_font()` is 80 byte writes from 0x000. -/
theorem loadFontWritesTheEightyBytes : Obligations.LoadFontWritesTheEightyBytes := by
  intro s hs
  have hlen : s.params.font.toList.length = 80 := Vector.length_toList
  have hframe : Frame s s.loadFont _ := State.writeBytes_frame (a := 0) (by rw [hlen]; decide)
  simp only [hlen, Nat.zero_add, List.map_id'] at hframe
  exact ⟨s.loadFont, rfl, hframe, s.writeBytes_pc 0 _, fun a => State.memRead_loadFont hs a.isLt⟩

/-- Settles O56: the bytes from 0x200 on end inside the address space exactly when the call is one the host can make. -/
theorem loadProgramCopiesTheBytes : Obligations.LoadProgramCopiesTheBytes := by
  refine fun s bytes => ⟨fun hs hlen => ?_, fun hlong => if_neg (Nat.not_le.mpr hlong)⟩
  have hl : 0x200 + bytes.length ≤ memSize := Nat.add_le_add_left hlen 0x200
  exact ⟨s.writeBytes 0x200 bytes, if_pos hlen, State.writeBytes_frame hl, s.writeBytes_pc 0x200 bytes,
    fun k hk => State.memRead_writeBytes_add hl hs hk⟩

/-! ## Reset -/

/-- Settles O57: the state after construction is what `reset()` makes of it, so one reading of `reinit` serves both. -/
theorem resetSetsEveryItem : Obligations.ResetSetsEveryItem := by
  intro s t h
  have eq_reinit (hreset : s.transact .reset = .next t) : t = reinit s := (Host.Outcome.next.inj hreset).symm
  have hparams (hreset : s.transact .reset = .next t) : t.params = s.params := by
    rw [eq_reinit hreset]
    rfl
  obtain ⟨u, rfl⟩ : ∃ u, t = reinit u := by
    obtain hreset | rfl := h
    · exact ⟨s, eq_reinit hreset⟩
    · exact ⟨State.reset, rfl⟩
  exact ⟨fun x => Vector.getElem_replicate x.isLt, rfl, rfl, fun j => Vector.getElem_replicate j.isLt, rfl, rfl, rfl,
    fun k => Vector.getElem_replicate k.isLt, FrameBuffer.pixel_blank, fun _ => rfl, rfl, rfl,
    fun k => Vector.getElem_replicate k.isLt, hparams, congrArg State.params⟩

end Sys2Proof.Machine
end

section
/-! PROOFS. The decode vectors (spec/95_test_vectors.md section 2.1). -/

namespace Sys2Proof

/-- Settles O5: the decoder runs on each of the nine legal and two illegal words. -/
theorem sampleWordsDecode : Obligations.SampleWordsDecode :=
  ⟨rfl, rfl, rfl, rfl, rfl, rfl, rfl, rfl, rfl, rfl, rfl⟩

end Sys2Proof
end
